-- ==== Sys2Proof/Word.lean ====
section
/-! DEFINITION. The word types of the manual, the index of a screen or text slot with the four-fold record over it,
and finite maps keyed by a number. -/
namespace Sys2Proof

/-- A byte of booth memory. -/
abbrev Byte := BitVec 8
/-- A u16 field (R184). -/
abbrev U16 := BitVec 16
/-- A u32 field: ids, generations, request and load numbers, wrapping counts (R184). -/
abbrev U32 := BitVec 32
/-- A u64 field: title ids, booth times, addresses (R184). -/
abbrev U64 := BitVec 64

/-- A screen, or a text slot: both are numbered 0 to 3. -/
inductive Idx4 where
  | i0 | i1 | i2 | i3
  deriving DecidableEq, Repr

namespace Idx4

/-- The number of a screen or slot. -/
def toNat : Idx4 → Nat
  | i0 => 0 | i1 => 1 | i2 => 2 | i3 => 3

/-- The screen or slot of a number, if it names one. -/
def ofNat? : Nat → Option Idx4
  | 0 => some i0 | 1 => some i1 | 2 => some i2 | 3 => some i3
  | _ => none

/-- All four, in number order. -/
def all : List Idx4 := [i0, i1, i2, i3]

end Idx4

/-- Four like things, one for each screen or slot. -/
structure Quad (α : Type) where
  q0 : α
  q1 : α
  q2 : α
  q3 : α
  deriving DecidableEq, Repr

namespace Quad

/-- The same thing four times. -/
def const {α : Type} (a : α) : Quad α := ⟨a, a, a, a⟩

/-- The thing at an index. -/
def get {α : Type} (q : Quad α) : Idx4 → α
  | .i0 => q.q0 | .i1 => q.q1 | .i2 => q.q2 | .i3 => q.q3

/-- The record with the thing at an index replaced. -/
def set {α : Type} (q : Quad α) (i : Idx4) (a : α) : Quad α :=
  match i with
  | .i0 => { q with q0 := a }
  | .i1 => { q with q1 := a }
  | .i2 => { q with q2 := a }
  | .i3 => { q with q3 := a }

/-- The record with the thing at an index changed by a function. -/
def modify {α : Type} (q : Quad α) (i : Idx4) (f : α → α) : Quad α := q.set i (f (q.get i))

/-- A function applied to each of the four. -/
def map {α β : Type} (q : Quad α) (f : α → β) : Quad β := ⟨f q.q0, f q.q1, f q.q2, f q.q3⟩

/-- The four as a list, in number order. -/
def toList {α : Type} (q : Quad α) : List α := [q.q0, q.q1, q.q2, q.q3]

end Quad

/-- A finite map keyed by a number, as a list with rising keys (FMap.Sorted). -/
abbrev FMap (β : Type) := List (Nat × β)

namespace FMap

/-- The value at a key, if the key is listed. -/
def find {β : Type} : FMap β → Nat → Option β
  | [], _ => none
  | (k, v) :: t, a => if a = k then some v else find t a

/-- The map with a key's value written; the key keeps its place in the rising order. -/
def put {β : Type} : FMap β → Nat → β → FMap β
  | [], a, v => [(a, v)]
  | (k, w) :: t, a, v =>
    if a < k then (a, v) :: (k, w) :: t
    else if a = k then (a, v) :: t
    else (k, w) :: put t a v

/-- The map without a key. -/
def erase {β : Type} : FMap β → Nat → FMap β
  | [], _ => []
  | (k, w) :: t, a => if a = k then erase t a else (k, w) :: erase t a

/-- The keys strictly rise. -/
abbrev Sorted {β : Type} (m : FMap β) : Prop := m.Pairwise (fun x y => x.1 < y.1)

end FMap

end Sys2Proof
end

