-- ==== Sys2Proof/Syntax.lean ====
section
/-! DEFINITION. The commands the block takes: one constructor of `Instr` for each row of spec/opcode_table.json, with
the operands each row's event brings with it; and the two kinds of record that the standby supply holds, which a
power-on brings back. -/
namespace Sys2Proof

/-- The bytes the host writes into booth memory between the previous command and this one, in writing order. -/
abbrev HostWrites := List (U64 × Byte)

/-- A sheet of booth memory (R172). -/
inductive Sheet where
  | screen (sc : Idx4)
  | booth
  | key
  deriving DecidableEq, Repr

/-- The notice kinds of the three kinds of sheet (R181). -/
inductive NoticeKind where
  | stateChange | entryRefused | markReached | keyWanted | cuePassed | fault | faultTally | starved | linkChange
  | credited | entryEnded | areaFault
  | inputChange | emergency | logPageFull | logWaiting | memoryFault | recordLost | slotAnswered
  | permitChange | clockChange
  deriving DecidableEq, Repr

/-- The part of a request word that R178 reads around the code and the arguments: the request number at the first
reading and at the second. -/
structure RequestWord where
  number : U32
  again : U32
  deriving DecidableEq, Repr

/-- Which of two events that meet at one boundary is taken first (R47). -/
inductive Order where
  | requestFirst
  | eventFirst
  deriving DecidableEq, Repr

/-- An access to booth memory that can fail on the bus (R183). -/
inductive BusAccess where
  /-- The booth header read of STARTING (R171). -/
  | boothHeader
  /-- The three seeding reads of a sheet, of its answer word, its report and its notice places (R172), and those of a
  slot's answer word (R49) and of a log page table entry (R156). -/
  | seedAnswer (sh : Sheet)
  | seedReport (sh : Sheet)
  | seedNotices (sh : Sheet)
  | seedSlot (slot : Fin 256)
  | seedPage (page : Fin 8)
  /-- The reads of a scan (R177). -/
  | requestWord (sh : Sheet)
  | settingsBlock (sc : Idx4)
  | showList (sc : Idx4)
  | seenCounts (sh : Sheet)
  | logTable
  /-- The writes of an answer (R179), a report (R180) and a notice place (R181). -/
  | answerWrite (sh : Sheet)
  | reportWrite (sh : Sheet)
  | noticeWrite (sh : Sheet) (kind : NoticeKind)
  /-- The read of the title record of a show list entry during LOAD (R16). -/
  | titleRead (sc : Idx4) (entry : Fin 64)
  /-- The reads and writes of the chunk pool (R50, R61, R68, R69). -/
  | offerRead (slot : Fin 256)
  | headerRead (slot : Fin 256)
  | slotAnswerWrite (slot : Fin 256)
  /-- A burst of the fetch in flight (R59), or of a picture or sound unit read (R96, R132). -/
  | fetchBurst (burst : Nat)
  | pictureBurst (sc : Idx4) (burst : Nat)
  | soundBurst (sc : Idx4) (burst : Nat)
  /-- The accesses of the log pages (R157, R158): a fill count is written alone at the end of a record write, and before
  the fill generation when a page is taken. -/
  | recordWrite
  | fillRead (page : Fin 8)
  | fillWrite (page : Fin 8)
  | fillGenWrite (page : Fin 8)
  | pageAnswerWrite (page : Fin 8)
  deriving DecidableEq, Repr

/-- The reader of a unit at play: the picture port or the sound renderer (R95, R132). -/
inductive Reader where
  | picture
  | sound
  deriving DecidableEq, Repr

/-- A CONTROL write that leaves the run request 0 (R169, R170), with the order in which the screens take their turns
where the engine enters STOPPING by it (R83, log 48). -/
structure StopWrite where
  enables : Option (BitVec 6) := none
  turns : List Idx4 := []
  deriving DecidableEq, Repr

/-- The emergency line as a booth tick samples it (R144), with the order in which the screens take their turns where the
latch is set by it (R83, log 48). -/
structure EmergencySample where
  active : Bool
  turns : List Idx4 := []
  deriving DecidableEq, Repr

/-- The registers whose writes are ignored whatever the engine state (R169). -/
inductive IgnoredWrite where
  | ident
  | attention
  | unnamedControlBits
  deriving DecidableEq, Repr

namespace Machine

/-! ## The records in the card's own memory (R71, R152) -/

inductive PermitState where
  | active | retiring | damaged
  deriving DecidableEq, Repr

/-- A key entry of a permit (R71). -/
structure PermitKey where
  track : U32
  value : BitVec 128
  deriving DecidableEq, Repr

/-- A permit record (R71) with the users count kept beside it. `check` is the record check, as it was last written. -/
structure Permit where
  id : U32
  title : U64
  mask : BitVec 4
  validFrom : U64
  validUntil : U64
  allowance : Nat
  perMille : Nat
  keys : List PermitKey
  state : PermitState := .active
  counted : Nat := 0
  pending : Nat := 0
  users : Nat := 0
  check : U32 := 0
  deriving DecidableEq, Repr

inductive RecordState where
  | armed | opened | closed
  deriving DecidableEq, Repr

inductive EndCause where
  | complete | skipped | stopped | unloaded | emergency | starvedOut | engineStop | engineReset | interrupted
  deriving DecidableEq, Repr

/-- A showing record (R152). `check` is the record check, as it was last written. -/
structure ShowingRecord where
  number : U32
  screen : Idx4
  load : U32
  entry : Nat
  title : U64
  permit : Option U32
  state : RecordState := .armed
  startTime : Option U64 := none
  endTime : Option U64 := none
  total : Nat
  needed : Nat
  credited : Nat := 0
  isCredited : Bool := false
  creditTime : Option U64 := none
  endCause : Option EndCause := none
  lost : Nat := 0
  pictureFaults : Nat := 0
  soundFaults : Nat := 0
  check : U32 := 0
  deriving DecidableEq, Repr

end Machine

open Machine (Permit ShowingRecord)

/-- One constructor per row of spec/opcode_table.json, in the table's order. `host` is what the host wrote into booth
memory before the command reads it; `r` is a request word; `enables` is present where the CONTROL write covers the
byte of the attention enables. -/
inductive Instr where
  /-- R90: whether the standby supply held, and the retained records that a disturbance changed, as it left them: permit
  records by their place and showing records by their place in the holding list (log 7). -/
  | powerOn (standbyHeld : Bool) (permits : FMap Permit) (records : FMap ShowingRecord)
  | runRequestSet (enables : Option (BitVec 6)) (host : HostWrites)
  | runRequestClear (write : StopWrite)
  | engineReset (run : Bool) (enables : Option (BitVec 6))
  | attentionEnablesWrite (enables : BitVec 6)
  /-- `cover` has bit n set where the write covers byte n of the register (R169). -/
  | boothBaseWrite (value : U64) (cover : BitVec 8)
  | ignoredRegisterWrite (target : IgnoredWrite) (value : U64)
  | attentionRead (cover : BitVec 8)
  | startChecksDone (host : HostWrites)
  | stopComplete (host : HostWrites)
  /-- `inputs` and `emergency` are the lines as this tick samples them (R143, R144). -/
  | boothTick (inputs : BitVec 8) (emergency : EmergencySample) (host : HostWrites)
  | frameBoundary (sc : Idx4)
  | starvedOut (sc : Idx4)
  | pulseTimerExpiry (sc : Idx4) (output : Fin 8)
  | trainingTimeout (sc : Idx4)
  | noAnswer (sc : Idx4)
  | linkSamplePeriod (sc : Idx4)
  | dipDownEnd (sc : Idx4)
  | dipUpEnd (sc : Idx4)
  | boothClockSecond
  | load (sc : Idx4) (r : RequestWord) (order : Order) (host : HostWrites)
  | loadComplete (sc : Idx4) (host : HostWrites)
  | start (sc : Idx4) (r : RequestWord) (order : Order)
  | hold (sc : Idx4) (r : RequestWord) (order : Order)
  | resume (sc : Idx4) (r : RequestWord)
  | continueHeld (sc : Idx4) (r : RequestWord)
  | skip (sc : Idx4) (r : RequestWord)
  | reelJump (sc : Idx4) (r : RequestWord) (reel : Byte)
  | stop (sc : Idx4) (r : RequestWord)
  | unload (sc : Idx4) (r : RequestWord) (order : Order)
  | setLevel (sc : Idx4) (r : RequestWord) (fade : U32) (host : HostWrites)
  | setLipsync (sc : Idx4) (r : RequestWord) (host : HostWrites)
  | setRoutes (sc : Idx4) (r : RequestWord) (host : HostWrites)
  | setLanguages (sc : Idx4) (r : RequestWord) (host : HostWrites)
  | keyAnswer (sc : Idx4) (r : RequestWord) (track : U32) (answer : Byte)
  | unknownRequest (sh : Sheet) (r : RequestWord) (code : U16)
  /-- `block` is the argument block, bytes 8 to 255 of the request word (12.3, 12.7). -/
  | permitAdd (r : RequestWord) (block : List Byte)
  | permitRemove (r : RequestWord) (permit : U32)
  | permitWipe (r : RequestWord)
  | clockSet (r : RequestWord) (time : U64)
  | clearEmergency (r : RequestWord)
  | fetchStart
  | fetchComplete (host : HostWrites)
  | busAccessFailure (access : BusAccess)
  | unitReadStart (sc : Idx4) (reader : Reader) (host : HostWrites)
  | soundUnitReadEnd (sc : Idx4) (host : HostWrites)
  | pictureUnitReadEnd (sc : Idx4) (host : HostWrites)
  | transferSegmentSent (sc : Idx4)
  | projectorTaken (sc : Idx4) (count : U16)
  | projectorRefused (sc : Idx4) (count : U16)
  | backOffRequest (sc : Idx4)
  | backOffRelease (sc : Idx4)
  | linkFound (sc : Idx4)
  | linkTrained (sc : Idx4)
  | trainingFailed (sc : Idx4)
  | signalLost (sc : Idx4)
  | captionSendComplete (sc : Idx4)
  | logRecordWriteStart
  | logRecordWritten
  | noticeWriteEnd (sh : Sheet) (kind : NoticeKind)
  | mainPowerLoss
  deriving DecidableEq, Repr

end Sys2Proof
end

