-- ==== Sys2Proof/Decode.lean ====
section
/-! DEFINITION. The command a word spells. -/
namespace Sys2Proof

/-- The command that a word of `nbits` bits spells by the table's bits: no row of spec/opcode_table.json gives a command
any bits, so no word spells one. -/
def decodeTableWord (_nbits _w : Nat) : Option Instr := none

end Sys2Proof
end

