-- ==== Sys2Proof/Config.lean ====
section
/-! DEFINITION. The figures the manual fixes for every P440, and the two values it leaves open. -/
namespace Sys2Proof.Config

/-- FREE VALUE (R89): byte `i` of the plain form of a sealed unit under a key. The manual says that unsealing is a fixed
transform of a key and a sealed unit and gives nothing else of it, so nothing constrains this constant. -/
opaque unsealByte (key : BitVec 128) (bytes : List Byte) (i : Nat) : Byte

/-- FREE VALUE (log 41): the number LOG_PAGE_FULL gives for a place of a full page which an earlier card wrote and whose
memory the log page's ring may not read (R158, R175). `record` is the place, 0 or 31. -/
opaque unreadRecordNumber (page : Nat) (gen : U32) (record : Nat) : U32

/-- Part code and revision of IDENT (R169). -/
def ident : U64 := 0x10440
/-- Length of the booth header in bytes (12.2). -/
def headerLength : Nat := 768
/-- The booth signature's eight bytes (12.2). -/
def signature : List Byte := [0x50, 0x4C, 0x34, 0x34, 0x30, 0x42, 0x54, 0x48]
/-- Cue records in the pool (R113). -/
def poolSize : Nat := 512
/-- Records each screen may always take (R114). -/
def reserve : Nat := 48
/-- Places of the permit table (R71). -/
def permitPlaces : Nat := 32
/-- Places of the holding list (R152). -/
def holdingPlaces : Nat := 16
/-- Entries of the log page table (9.4). -/
def logPages : Nat := 8
/-- Records in a log page (9.4). -/
def recordsPerPage : Nat := 32
/-- References a picture or sound queue holds at most (R65). -/
def queueRefs : Nat := 64
/-- Frames left at which the successor pass runs (R26). -/
def successorFrames : Nat := 96
/-- HELD tracks a screen may have at once (R86). -/
def heldTracks : Nat := 4
/-- Places of the delay line per output (R103). -/
def delayPlaces : Nat := 8192
/-- Unity of gains and levels (Gains, section 5). -/
def unity : Nat := 16384
/-- Boundaries a link may spend in TRAINING (R130). -/
def trainingLimit : Nat := 48
/-- Unanswered transfers that bring the link down (R130). -/
def answerWaitLimit : Nat := 8
/-- Bytes of a burst (R59, R96). -/
def burstBytes : Nat := 4096
/-- Bytes of a picture segment (R133). -/
def segmentBytes : Nat := 65536
/-- Tries of one access: the first and three retries (R183). -/
def busTries : Nat := 4
/-- The figure a 32-bit count without wrapping stops at (R72, R164). -/
def maxCount : Nat := 4294967295

end Sys2Proof.Config
end

