-- ==== Sys2Proof/Machine/State.lean ====
section
/-! DEFINITION. The state of the card as plain data, its reset value, and the reasons a step can stop. -/
namespace Sys2Proof.Machine

/-! ## Booth memory, areas and the header -/

/-- Booth memory: the bytes written, by rising address, no zero byte listed (Mem.wf). -/
abbrev Mem := FMap Byte

/-- The three rings of R175. -/
inductive Ring where
  | r0 | r1 | r3
  deriving DecidableEq, Repr

/-- A locator (12.2). -/
structure Locator where
  area : Nat
  ring : Ring
  offset : Nat
  deriving DecidableEq, Repr

/-- An area descriptor (12.2): base, length and the four rights. -/
structure Area where
  base : Nat
  length : Nat
  r1Read : Bool
  r1Write : Bool
  r3Read : Bool
  r3Write : Bool
  deriving DecidableEq, Repr

/-- A screen entry of the booth header (12.2). -/
structure ScreenEntry where
  enabled : Bool
  ring : Ring
  linkRate : Nat
  sheet : Locator
  deriving DecidableEq, Repr

/-- The booth header as a start that passes copies it (R171). -/
structure Header where
  areas : List Area
  slotCount : Nat
  pool : Locator
  boothSheet : Locator
  keySheet : Locator
  screens : Quad ScreenEntry
  deriving DecidableEq, Repr

/-- The engine states of R170. -/
inductive EngineState where
  | off | starting | running | stopping | faulted
  deriving DecidableEq, Repr

/-- The stored fields of the register window (R169). The engine state stands in `Card.engine`; IDENT is a constant. -/
structure Window where
  runRequest : Bool := false
  enables : BitVec 6 := 0
  faultCode : Nat := 0
  faultDetail : Nat := 0
  boothBase : U64 := 0
  attention : BitVec 6 := 0
  /-- The value the latest read of ATTENTION returned. -/
  readData : U64 := 0
  deriving DecidableEq, Repr

/-! ## The booth scanner -/

/-- The scanner's side of one notice place (R181). -/
structure NoticePlace where
  count : U32 := 0
  detail : List Byte := []
  /-- The raised count of the write in flight, if there is one. -/
  writing : Option U32 := none
  /-- A raising came while the write in flight was under way. -/
  newer : Bool := false
  /-- A write of the place failed and is due at the next booth tick (R183). -/
  retry : Bool := false
  deriving DecidableEq, Repr

/-- The scanner's state for one sheet (R172, R178, R180). `taken` says that the scan of the sheet at the boundary or
tick in hand has been made (R25, R74; log 2). -/
structure SheetScan where
  seeded : Bool := false
  lastTaken : U32 := 0
  taken : Bool := false
  reportSeq : U32 := 0
  /-- The notice places by their number on the board. -/
  places : FMap NoticePlace := []
  deriving DecidableEq, Repr

/-- The booth scanner: one record per sheet. -/
structure Scanner where
  screens : Quad SheetScan := Quad.const {}
  booth : SheetScan := {}
  key : SheetScan := {}
  deriving DecidableEq, Repr

/-- What the blocks hand the booth scanner within one step; it publishes them in this order at the end of the step. -/
inductive Publication where
  | notice (sh : Sheet) (kind : NoticeKind) (detail : List Byte)
  | answer (sh : Sheet) (number : U32) (result : Nat) (detail : List Byte)
  | report (sh : Sheet) (fields : List (Nat × Nat)) (groups : List (List (Nat × Nat)))
  | slotAnswer (slot : Nat) (gen : U32) (result : Nat)
  | pageAnswer (page : Nat) (gen : U32) (result : Nat)
  | pageFill (page : Nat) (fill : Nat) (gen : Option U32)
  | pageRecord (addr : Nat) (bytes : List Byte)
  deriving DecidableEq, Repr

/-! ## Titles, show lists and settings (chapter 1) -/

/-- A track's kind with the fields of its kind (R5). -/
inductive TrackKind where
  | picture
  | sound (rate channels : Nat)
  | text (slot : Idx4) (lang : List Byte)
  | automation
  deriving DecidableEq, Repr

/-- A track of the title cache (R19). -/
structure Track where
  kind : TrackKind
  id : U32
  isSealed : Bool
  deriving DecidableEq, Repr

/-- A reel of the title cache (R19); its tracks stand in the order of R4. -/
structure Reel where
  duration : Nat
  tracks : List Track
  deriving DecidableEq, Repr

/-- An entry of the title cache (R19). -/
structure Title where
  id : U64
  rate : Nat
  isSealed : Bool
  reels : List Reel
  deriving DecidableEq, Repr

/-- The condition of a show list entry (R9). -/
inductive Condition where
  | always
  | inputSet (n : Nat)
  | inputClear (n : Nat)
  deriving DecidableEq, Repr

/-- A resolved entry cue (R10, R20). -/
structure EntryCue where
  reel : Nat
  frame : Nat
  code : Nat
  arg1 : Nat
  arg2 : Nat
  deriving DecidableEq, Repr

/-- The kind of a show list entry (R8), with what R20 keeps of it. -/
inductive EntryKind where
  | title (cache : Nat)
  | interval (seconds : Nat)
  | mark (holdAtMark : Bool)
  deriving DecidableEq, Repr

/-- The arming status of R20. -/
inductive ArmStatus where
  | notArmed | armed | refused | passed
  deriving DecidableEq, Repr

/-- An entry of the show list copy (R20), with the permit chosen for it at arming (R81). -/
structure Entry where
  kind : EntryKind
  condition : Condition
  cues : List EntryCue
  status : ArmStatus := .notArmed
  permit : Option U32 := none
  deriving DecidableEq, Repr

/-- The six fault classes (R163). -/
inductive FaultClass where
  | pictureUnit | soundUnit | textUnit | linkLost | mixClip | cueDrop
  deriving DecidableEq, Repr

/-- A fault disposition (R12). -/
inductive Disposition where
  | hold | conceal | tally
  deriving DecidableEq, Repr

/-- A route (R13). -/
structure Route where
  source : Nat
  output : Nat
  gain : Nat
  deriving DecidableEq, Repr

/-- The settings copy with its values after power-on and engine reset (R11). -/
structure Settings where
  preroll : Nat := 24
  recovery : Nat := 12
  starvation : Nat := 10
  pictureUnit : Disposition := .tally
  soundUnit : Disposition := .tally
  textUnit : Disposition := .tally
  linkLost : Disposition := .conceal
  mixClip : Disposition := .tally
  cueDrop : Disposition := .tally
  routes : List Route := []
  overlay : Option Idx4 := none
  captions : BitVec 4 := 0
  level : Nat := 16384
  lipsync : Nat := 0
  deriving DecidableEq, Repr

/-- A set of CLAMPED flags, by the bits of R186. -/
abbrev ClampFlags := BitVec 9

/-! ## The show sequencer (chapter 2) -/

inductive HoldKind where
  | operator | fault | mark
  deriving DecidableEq, Repr

inductive StarveReason where
  | starve | reposition
  deriving DecidableEq, Repr

inductive FinishCause where
  | complete | stopped | emergency | starvedOut | engineStop | empty
  deriving DecidableEq, Repr

/-- The screen state with its hold kind, starve reason or finish cause (R21). -/
inductive ScreenState where
  | dark | loading | ready | running
  | held (kind : HoldKind)
  | starved (reason : StarveReason)
  | finished (cause : FinishCause)
  deriving DecidableEq, Repr

/-- Current reel and next frame (R21). -/
structure Position where
  reel : Nat
  frame : Nat
  deriving DecidableEq, Repr

/-- An entry cue as the show list gives it (12.4). -/
structure RawCue where
  anchor : Nat
  code : Nat
  offset : Nat
  arg1 : Nat
  arg2 : Nat
  deriving DecidableEq, Repr

/-- A show list entry as the sheet gives it (12.4). -/
structure RawEntry where
  kind : Nat
  condition : Nat
  input : Nat
  cueCount : Nat
  holdAtMark : Bool
  seconds : Nat
  locator : Locator
  cues : List RawCue
  deriving DecidableEq, Repr

/-- A LOAD in progress (R15): the request number, the clamped settings with their flags, the show list as read, and
whether the emergency latch has been set since the LOAD began (R18). -/
structure LoadInProgress where
  number : U32
  settings : Settings
  clamped : ClampFlags
  entryCount : Nat
  entries : List RawEntry
  latched : Bool := false
  deriving DecidableEq, Repr

/-- The frame presented at the boundary in hand: a TITLE frame or an INTERVAL frame of the current entry. -/
structure Presented where
  entry : Nat
  reel : Nat
  frame : Nat
  isTitle : Bool
  deriving DecidableEq, Repr

/-- The show sequencer's items with their values after power-on and engine reset (R21). -/
structure Sequencer where
  state : ScreenState := .dark
  current : Option Nat := none
  armed : Option Nat := none
  settled : Bool := false
  started : Bool := false
  position : Option Position := none
  inProgress : Bool := false
  startWhenReady : Bool := false
  starveCount : Nat := 0
  faultHoldDue : Bool := false
  loadNumber : Option U32 := none
  settings : Settings := {}
  list : List Entry := []
  titles : List Title := []
  /-- The entry the next arming pass begins with (R26). -/
  nextLook : Nat := 0
  load : Option LoadInProgress := none
  /-- The request taken at the boundary in hand did the sequencer's work of R24, R31 to R33, R37 or R38 there. -/
  handled : Bool := false
  /-- Fault hold due was set by the work of the boundary in hand, so it is acted on at the next one (R39). -/
  dueLater : Bool := false
  /-- A HOLD was taken at the boundary in hand (R39, R47). -/
  holdTaken : Bool := false
  /-- The entry that ended at the boundary in hand had a fault hold due there, so a MARK that holds there holds with
  kind FAULT (R39). -/
  dueEnded : Bool := false
  presented : Option Presented := none
  deriving DecidableEq, Repr

/-! ## Intake (chapter 3) -/

/-- A tally of a slot (R49). -/
structure Tally where
  gen : U32
  outstanding : Nat
  released : Bool := false
  withdrawn : Bool := false
  deriving DecidableEq, Repr

/-- A slot record (R49). -/
structure SlotRecord where
  answered : Option U32 := none
  seedPending : Bool := false
  tally : Option Tally := none
  deriving DecidableEq, Repr

/-- A chunk header (R48, 12.6). -/
structure ChunkHeader where
  locator : Locator
  load : U32
  track : U32
  sequence : Nat
  length : Nat
  check : U32
  screen : Nat
  entry : Nat
  units : Nat
  isSealed : Bool
  isLast : Bool
  deriving DecidableEq, Repr

inductive Standing where
  | offered | inFetch | inUse
  deriving DecidableEq, Repr

/-- A directory entry (R51). -/
structure DirEntry where
  slot : Nat
  gen : U32
  header : ChunkHeader
  standing : Standing := .offered
  changed : Bool := false
  deriving DecidableEq, Repr

/-- The four kinds of feed; a text feed has a slot (R52). -/
inductive FeedKind where
  | picture | sound | automation
  | text (slot : Idx4)
  deriving DecidableEq, Repr

/-- A feed (R52). -/
structure Feed where
  reel : Nat := 0
  frame : Nat := 0
  sequence : Nat := 0
  complete : Bool := false
  deriving DecidableEq, Repr

/-- The seven feeds of a TITLE entry (R52). -/
structure Feeds where
  picture : Feed := {}
  sound : Feed := {}
  automation : Feed := {}
  text : Quad Feed := Quad.const {}
  deriving DecidableEq, Repr

/-- A reference to a unit (R63). -/
structure Ref where
  slot : Nat
  gen : U32
  offset : Nat
  length : Nat
  check : U32
  frame : Nat
  reel : Nat
  entry : Nat
  deriving DecidableEq, Repr

/-- An item of a picture or sound queue (R65): a reference, or a MISSING placeholder for a run of frames. -/
inductive QueueItem where
  | ref (r : Ref)
  | missing (entry reel first count : Nat)
  deriving DecidableEq, Repr

/-- The fetch in flight: slot and generation, and the burst being read with its failed tries (R58, R59). -/
structure Fetch where
  slot : Nat
  gen : U32
  burst : Nat := 0
  tries : Nat := 0
  deriving DecidableEq, Repr

/-! ## Permits, keys and the clock (chapter 4) -/

/-- The state of a text key table entry (R86). -/
inductive TextKeyState where
  | held
  | lent (key : BitVec 128) (permit : U32)
  | declined
  deriving DecidableEq, Repr

/-- A text key table entry (R86). `fresh` says that the track was LENT its key since the latest booth tick, so that
intake has not judged its chunks again (R57, R87). -/
structure TextKey where
  track : U32
  reel : Nat
  state : TextKeyState
  fresh : Bool := false
  deriving DecidableEq, Repr

/-- The permit unit: the table by place number and the booth clock (R71, R79). -/
structure PermitUnit where
  table : FMap Permit := []
  clock : U64 := 0
  clockSet : Bool := false
  deriving DecidableEq, Repr

/-! ## Sound (chapter 5) -/

/-- Why a unit did not come out (R98, R133). -/
inductive UnitCause where
  | read | length | check | late | missing
  deriving DecidableEq, Repr

/-- How far a staged unit's read has come (R95 to R97). -/
inductive StagedState where
  | reading (burst tries : Nat)
  | ready (bytes : List Byte)
  | failed (cause : UnitCause)
  deriving DecidableEq, Repr

/-- A staged unit: the reference, the chunk's data locator and the read (R92, R129). -/
structure Staged where
  ref : Ref
  locator : Locator
  state : StagedState
  deriving DecidableEq, Repr

inductive DipState where
  | none | down | up
  deriving DecidableEq, Repr

/-- What the mix is fed for a frame period that carries sound (R94, R97): the unit's plain bytes, its channel count and
its track's sample rate. -/
structure SoundFeed where
  bytes : List Byte
  channels : Nat
  rate : Nat
  deriving DecidableEq, Repr

/-- A sound sample, 24 bits signed. -/
abbrev Sample := BitVec 24

/-- The sound renderer's items with their values after power-on (R92, R93). The delay line lists place w of output o
under the key 16 w + o, and no zero sample. -/
structure Sound where
  routes : List Route := []
  newRoutes : Option (List Route) := none
  level : Nat := 16384
  delay : Nat := 0
  pendingDelay : Option Nat := none
  /-- A SET_LEVEL taken at the boundary in hand set the target to 0 over its fade time (R107). -/
  fadeOut : Bool := false
  line : FMap Sample := []
  write : Nat := 0
  master : Nat := 0
  target : Nat := 0
  step : Nat := 1
  dip : DipState := .none
  staged : Option Staged := none
  feed : Option SoundFeed := none
  linkRate : Nat := 48000
  /-- Sample periods gone by in the frame period, and its length (R23). -/
  count : Nat := 0
  period : Nat := 2000
  /-- The sample frame sent at the latest sample period, outputs 0 to 15 (R93). -/
  sent : List Sample := List.replicate 16 0
  deriving DecidableEq, Repr

/-! ## Text (chapter 6) -/

inductive Region where
  | top | bottom
  deriving DecidableEq, Repr

/-- The TEXT part of a cue record (R112). -/
structure TextCue where
  id : U32
  inFrame : Nat
  outFrame : Nat
  fadeIn : Nat
  fadeOut : Nat
  region : Region
  slot : Idx4
  style : BitVec 2
  text : List Byte
  deriving DecidableEq, Repr

/-- The AUTOMATION part of a cue record (R112). -/
structure AutoCue where
  frame : Nat
  code : Nat
  arg1 : Nat
  arg2 : Nat
  deriving DecidableEq, Repr

inductive CueBody where
  | text (c : TextCue)
  | automation (c : AutoCue)
  deriving DecidableEq, Repr

/-- A held cue record (R112). -/
structure CueRecord where
  owner : Idx4
  entry : Nat
  reel : Nat
  arrival : U32
  body : CueBody
  deriving DecidableEq, Repr

/-- The cue pool (R113): the free list, head first, and the held records by number. -/
structure CuePool where
  free : List Nat := List.range 512
  held : FMap CueRecord := []
  deriving DecidableEq, Repr

/-- A language selection (R118). -/
structure Selection where
  overlay : Option Idx4 := none
  captions : BitVec 4 := 0
  deriving DecidableEq, Repr

/-- The queue part of the text engine (R118): record numbers in queue order and in order of entry into the sets. -/
structure TextState where
  queue : List Nat := []
  overlay : List Nat := []
  captions : Quad (List Nat) := Quad.const []
  selection : Selection := {}
  pendingSelection : Option Selection := none
  nextArrival : U32 := 0
  deriving DecidableEq, Repr

/-- A cue of a caption slot block (R127). -/
structure CaptionCue where
  id : U32
  region : Region
  style : BitVec 2
  text : List Byte
  deriving DecidableEq, Repr

/-- A slot block of a caption state frame (R127). -/
structure SlotBlock where
  slot : Idx4
  lang : List Byte
  cues : List CaptionCue
  deriving DecidableEq, Repr

/-- A caption state frame (R127). -/
structure CaptionFrame where
  screen : Idx4
  count : U16
  showing : Bool
  blocks : List SlotBlock
  deriving DecidableEq, Repr

/-- The caption port (R127, R128): the frame being sent (none: the link is IDLE), the pending frame, the frame count. -/
structure CaptionPort where
  sending : Option CaptionFrame := none
  pending : Option CaptionFrame := none
  count : U16 := 0
  deriving DecidableEq, Repr

/-! ## Picture (chapter 7) -/

inductive LinkState where
  | down | training | up
  deriving DecidableEq, Repr

inductive TransferKind where
  | picture | faultDark | dark
  deriving DecidableEq, Repr

/-- A cue of the overlay set as it is handed over (R123). -/
structure OverlayCue where
  region : Region
  style : BitVec 2
  opacity : Nat
  text : List Byte
  deriving DecidableEq, Repr

/-- A segment of a frame transfer (R133). -/
inductive Segment where
  | header (screen : Idx4) (count : U16) (kind : TransferKind) (frame : Option Presented) (length : Nat)
  | picture (bytes : List Byte)
  | overlay (cues : List OverlayCue)
  deriving DecidableEq, Repr

/-- The transfer in flight (R129): the segments, the number of them already sent, whether the one being sent was cut
short, and whether any answer has come. -/
structure Transfer where
  kind : TransferKind
  count : U16
  frame : Option Presented
  segments : List Segment
  sent : Nat := 0
  cut : Bool := false
  answered : Bool := false
  deriving DecidableEq, Repr

/-- What the port sent on a link that is not UP at the latest boundary (R130). -/
inductive TrainingOutput where
  | nothing | offer | trainingFrame
  deriving DecidableEq, Repr

/-- The picture port's items with their values after power-on and engine reset (R129). -/
structure PicturePort where
  link : LinkState := .down
  training : Nat := 0
  answerWait : Nat := 0
  outage : Bool := false
  backOff : Bool := false
  transfer : Option Transfer := none
  staged : Option Staged := none
  frameCount : U16 := 0
  delivered : Nat := 0
  lost : Nat := 0
  faulted : Nat := 0
  output : TrainingOutput := .nothing
  /-- The frame in progress was counted delivered (R47). -/
  lastDelivered : Bool := false
  deriving DecidableEq, Repr

/-! ## Showing counter (chapter 9) -/

/-- A reel's part of an entry play tally (R148). -/
structure ReelCount where
  pass : Nat := 0
  best : Nat := 0
  last : Option Nat := none
  deriving DecidableEq, Repr

/-- An entry play tally (R148, R149). -/
structure PlayTally where
  record : U32
  entry : Nat
  total : Nat
  perMille : Nat
  needed : Nat
  credited : Nat := 0
  isCredited : Bool := false
  reels : List ReelCount
  deriving DecidableEq, Repr

/-- A page record (R148). -/
structure PageRecord where
  answered : Option U32 := none
  seedPending : Bool := false
  deriving DecidableEq, Repr

/-- The host part of a log page table entry as last read (R156). -/
structure PageOffer where
  gen : U32 := 0
  locator : Locator := ⟨0, .r0, 0⟩
  deriving DecidableEq, Repr

/-- The current page (R148). `first` is the number of the record the card wrote into place 0, where it has written one
since the page became current (R158). -/
structure CurrentPage where
  page : Nat
  gen : U32
  fill : Nat
  locator : Locator
  first : Option U32 := none
  deriving DecidableEq, Repr

/-- The showing counter (R148). The holding list and the record number counter are retained. DESIGN CHOICE (log 80): the
view of the log page table's host part (R156), which R148 does not list, is generation 0 everywhere after power-on,
reset and OFF, so that no page is offered before the first read. -/
structure Counter where
  holding : List ShowingRecord := []
  nextNumber : U32 := 0
  plays : Quad (Option PlayTally) := Quad.const none
  pages : List PageRecord := List.replicate 8 {}
  offers : List PageOffer := List.replicate 8 {}
  current : Option CurrentPage := none
  /-- The record write in flight: the record's number and its place in the page. -/
  writing : Option (U32 × Nat) := none
  waiting : Bool := false
  lastPage : Nat := 7
  deriving DecidableEq, Repr

/-! ## Automation (chapter 8) -/

/-- What an owed EMERGENCY notice will say (R144): the booth time at the setting, if the clock was set. -/
structure OwedEmergency where
  time : Option U64
  deriving DecidableEq, Repr

/-- The automation unit (R138). A pulse timer stands in `timers` under its output number while it runs. -/
structure Automation where
  outputs : Quad (BitVec 8) := Quad.const 0
  timers : Quad (FMap Nat) := Quad.const []
  safe : Quad (BitVec 8) := Quad.const 0
  emergency : Quad (BitVec 8) := Quad.const 0
  inputs : BitVec 8 := 0
  emergencySample : Bool := false
  latch : Bool := false
  owed : Option OwedEmergency := none
  deriving DecidableEq, Repr

/-! ## The card and the machine -/

/-- The blocks repeated for each screen. `tallies` holds the 17 fault counts in the order of R163 (R164). -/
structure Screen where
  seq : Sequencer := {}
  pictureQueue : List QueueItem := []
  soundQueue : List QueueItem := []
  currentFeeds : Option Feeds := none
  armedFeeds : Option Feeds := none
  textKeys : List TextKey := []
  sound : Sound := {}
  text : TextState := {}
  captions : CaptionPort := {}
  port : PicturePort := {}
  tallies : List Nat := List.replicate 17 0
  deriving DecidableEq, Repr

/-- A PERMIT_CHANGE raising owed until the next RUNNING (R90, R91): permit id, place, change code, counted. -/
structure OwedPermitChange where
  permit : U32
  place : Nat
  change : Nat
  counted : Nat
  deriving DecidableEq, Repr

/-- Everything inside the card but the register window, the scanner and booth memory. -/
structure Card where
  engine : EngineState := .off
  header : Option Header := none
  screens : Quad Screen := Quad.const {}
  slots : List SlotRecord := []
  directory : List DirEntry := []
  fetch : Option Fetch := none
  permits : PermitUnit := {}
  pool : CuePool := {}
  auto : Automation := {}
  counter : Counter := {}
  owedPermits : List OwedPermitChange := []
  /-- RECORD_LOST is owed, with the number of records dropped (R90, R162). -/
  owedLost : Option Nat := none
  /-- The permit report is due at the next booth tick (R73). -/
  permitDue : Bool := false
  /-- A field of the booth report has changed, so it is due at the next booth tick (R180). -/
  boothDue : Bool := false
  /-- Failed tries of accesses that have not completed since (R183). -/
  bus : List (BusAccess × Nat) := []
  /-- A record closed in this step, so a page is sought at its end (R157). -/
  seekDue : Bool := false
  outbox : List Publication := []
  deriving DecidableEq, Repr

/-- The machine: the queue of waiting commands, main power, booth memory, the register window, the scanner and the
card. -/
structure State where
  pending : List Instr := []
  powered : Bool := true
  mem : Mem := []
  window : Window := {}
  scan : Scanner := {}
  card : Card := {}
  deriving DecidableEq, Repr

/-- Why a step stops with a fault: never. Every fault the manual names is an effect on the state (R163, R183), so this
type has no constructor, which is safe. -/
inductive Fault where
  deriving DecidableEq, Repr

/-- Why a step has no meaning. -/
inductive Refusal where
  /-- Raised by an arm of exec that has no meaning yet, with its mnemonic; safe, since the run ends there. -/
  | notModelled (mnemonic : String)
  deriving DecidableEq, Repr

/-- Right after power-on with nothing held by the standby supply (R90, R169 and the reset columns of every chapter):
RECORD_LOST is owed to the first RUNNING, and the permit report is due since the table and the clock have changed
(R73). -/
def State.reset : State := { card := { owedLost := some 0, permitDue := true } }

end Sys2Proof.Machine
end

