-- ==== Sys2Proof/Machine/Codes.lean ====
section
/-! DEFINITION. The codes of named values (R185), the places of the notice boards (R181) and the request codes
(12.3). -/
namespace Sys2Proof.Machine

/-- A flag as a field value. -/
def flagCode (b : Bool) : Nat := if b then 1 else 0

/-- The screen state with its hold kind, starve reason or finish cause, as two codes (R185, R186). -/
def ScreenState.codes : ScreenState → Nat × Nat
  | .dark => (1, 0)
  | .loading => (2, 0)
  | .ready => (3, 0)
  | .running => (4, 0)
  | .held .operator => (5, 1)
  | .held .fault => (5, 2)
  | .held .mark => (5, 3)
  | .starved .starve => (6, 1)
  | .starved .reposition => (6, 2)
  | .finished .complete => (7, 1)
  | .finished .stopped => (7, 2)
  | .finished .emergency => (7, 3)
  | .finished .starvedOut => (7, 4)
  | .finished .engineStop => (7, 5)
  | .finished .empty => (7, 6)

def EndCause.code : EndCause → Nat
  | .complete => 1 | .skipped => 2 | .stopped => 3 | .unloaded => 4 | .emergency => 5 | .starvedOut => 6
  | .engineStop => 7 | .engineReset => 8 | .interrupted => 9

/-- Answer results (R185). -/
inductive AnswerResult where
  | done | clamped | refusedState | noProjector | emergency | badArgument | badRecord | areaFault | memoryFault
  | unknownRequest | duplicate | tableFull | notFound | clockStep
  deriving DecidableEq, Repr

def AnswerResult.code : AnswerResult → Nat
  | .done => 1 | .clamped => 2 | .refusedState => 3 | .noProjector => 4 | .emergency => 5 | .badArgument => 6
  | .badRecord => 7 | .areaFault => 8 | .memoryFault => 9 | .unknownRequest => 10 | .duplicate => 11
  | .tableFull => 12 | .notFound => 13 | .clockStep => 14

/-- Answer detail words (R185). -/
inductive DetailWord where
  | retiring | resumed | declined | notSet
  deriving DecidableEq, Repr

def DetailWord.code : DetailWord → Nat
  | .retiring => 1 | .resumed => 2 | .declined => 3 | .notSet => 4

/-- The checks of chapters 1 and 4 (R185). -/
inductive Check where
  | titleLength | nameLength | frameRate | reelCount | reelDuration | pictureTrack | soundTrack | textSlot
  | automationTrack | trackKind | soundFormat | textLanguage | sealedFlag | trackDuration | trackId | entryCount
  | entryKind | condition | intervalLength | entryCue | check | permitId | screenMask | window | perMille | keys
  deriving DecidableEq, Repr

def Check.code : Check → Nat
  | .titleLength => 1 | .nameLength => 2 | .frameRate => 3 | .reelCount => 4 | .reelDuration => 5
  | .pictureTrack => 6 | .soundTrack => 7 | .textSlot => 8 | .automationTrack => 9 | .trackKind => 10
  | .soundFormat => 11 | .textLanguage => 12 | .sealedFlag => 13 | .trackDuration => 14 | .trackId => 15
  | .entryCount => 16 | .entryKind => 17 | .condition => 18 | .intervalLength => 19 | .entryCue => 20
  | .check => 21 | .permitId => 22 | .screenMask => 23 | .window => 24 | .perMille => 25 | .keys => 26

/-- Slot answer results (R69, R185). -/
inductive SlotResult where
  | spent | released | stale | duplicate | badHeader | areaFault | fetchFault | checkFailed | surplus
  deriving DecidableEq, Repr

def SlotResult.code : SlotResult → Nat
  | .spent => 1 | .released => 2 | .stale => 3 | .duplicate => 4 | .badHeader => 5 | .areaFault => 6
  | .fetchFault => 7 | .checkFailed => 8 | .surplus => 9

/-- Log page answer results (R185). -/
inductive PageResult where
  | full | areaFault | writeFault
  deriving DecidableEq, Repr

def PageResult.code : PageResult → Nat
  | .full => 1 | .areaFault => 2 | .writeFault => 3

/-- Arming refusals (R27, R185). -/
inductive ArmRefusal where
  | clockUnset | noPermit | screen | outsideWindow | allowanceSpent | keyMissing | logFull
  deriving DecidableEq, Repr

def ArmRefusal.code : ArmRefusal → Nat
  | .clockUnset => 1 | .noPermit => 2 | .screen => 3 | .outsideWindow => 4 | .allowanceSpent => 5
  | .keyMissing => 6 | .logFull => 7

def FaultClass.code : FaultClass → Nat
  | .pictureUnit => 1 | .soundUnit => 2 | .textUnit => 3 | .linkLost => 4 | .mixClip => 5 | .cueDrop => 6

/-- The fault causes of R163. -/
inductive FaultCause where
  | read | length | check | late | missing | decode | timing | pool | overrun
  deriving DecidableEq, Repr

def FaultCause.code : FaultCause → Nat
  | .read => 1 | .length => 2 | .check => 3 | .late => 4 | .missing => 5 | .decode => 6 | .timing => 7
  | .pool => 8 | .overrun => 9

def UnitCause.toFault : UnitCause → FaultCause
  | .read => .read | .length => .length | .check => .check | .late => .late | .missing => .missing

def Disposition.code : Disposition → Nat
  | .hold => 1 | .conceal => 2 | .tally => 3

def LinkState.code : LinkState → Nat
  | .down => 1 | .training => 2 | .up => 3

/-- Causes of a link change (R130). -/
inductive LinkCause where
  | found | trained | trainingFailed | trainingTimeout | signalLost | noAnswer
  deriving DecidableEq, Repr

def LinkCause.code : LinkCause → Nat
  | .found => 1 | .trained => 2 | .trainingFailed => 3 | .trainingTimeout => 4 | .signalLost => 5 | .noAnswer => 6

def RecordState.code : RecordState → Nat
  | .armed => 1 | .opened => 2 | .closed => 3

def PermitState.code : PermitState → Nat
  | .active => 1 | .retiring => 2 | .damaged => 3

/-- Permit changes (R78). -/
inductive PermitChange where
  | added | removed | retiring | gone | damaged
  deriving DecidableEq, Repr

def PermitChange.code : PermitChange → Nat
  | .added => 1 | .removed => 2 | .retiring => 3 | .gone => 4 | .damaged => 5

/-- The ring with the larger number, which is the less privileged (R3, R175). -/
def Ring.max : Ring → Ring → Ring
  | .r3, _ => .r3
  | _, .r3 => .r3
  | .r1, _ => .r1
  | _, .r1 => .r1
  | .r0, .r0 => .r0

/-- The items of a MEMORY_FAULT detail (R185). -/
inductive FaultItem where
  | requestWord | settingsBlock | showList | seenCounts | logTable | answerWord | report | noticePlace | offerWord
  | slotHeader | slotAnswerWord | showingRecord | fillCount | titleRecord
  deriving DecidableEq, Repr

def FaultItem.code : FaultItem → Nat
  | .requestWord => 1 | .settingsBlock => 2 | .showList => 3 | .seenCounts => 4 | .logTable => 5 | .answerWord => 6
  | .report => 7 | .noticePlace => 8 | .offerWord => 9 | .slotHeader => 10 | .slotAnswerWord => 11
  | .showingRecord => 12 | .fillCount => 13 | .titleRecord => 14

/-- The place codes of the chunk pool and of the log pages (R185). -/
def poolPlace : Nat := 6
def logPlace : Nat := 7


/-- Whether a slot is in a caption slot mask (R13). -/
def maskHas (m : BitVec 4) (i : Idx4) : Bool := m.getLsbD i.toNat

end Sys2Proof.Machine

namespace Sys2Proof

/-- The place code of a sheet (R171, R185): 0 to 3, 4 the booth sheet, 5 the key sheet. -/
def Sheet.place : Sheet → Nat
  | .screen sc => sc.toNat
  | .booth => 4
  | .key => 5

/-- The ATTENTION cause and enable bit of a sheet (R169). -/
def Sheet.causeBit (sh : Sheet) : BitVec 6 := 1#6 <<< sh.place

/-- Whether a notice kind belongs to a sheet (R181). -/
def NoticeKind.onSheet (k : NoticeKind) : Sheet → Bool
  | .screen _ =>
    match k with
    | .stateChange | .entryRefused | .markReached | .keyWanted | .cuePassed | .fault | .faultTally | .starved
    | .linkChange | .credited | .entryEnded | .areaFault => true
    | _ => false
  | .booth =>
    match k with
    | .inputChange | .emergency | .logPageFull | .logWaiting | .memoryFault | .recordLost | .slotAnswered => true
    | _ => false
  | .key =>
    match k with
    | .permitChange | .clockChange => true
    | _ => false

/-- The place of a notice kind on its board, in the order of R181. -/
def NoticeKind.place : NoticeKind → Nat
  | .stateChange => 0 | .entryRefused => 1 | .markReached => 2 | .keyWanted => 3 | .cuePassed => 4 | .fault => 5
  | .faultTally => 6 | .starved => 7 | .linkChange => 8 | .credited => 9 | .entryEnded => 10 | .areaFault => 11
  | .inputChange => 0 | .emergency => 1 | .logPageFull => 2 | .logWaiting => 3 | .memoryFault => 4
  | .recordLost => 5 | .slotAnswered => 6
  | .permitChange => 0 | .clockChange => 1

/-- The code of a request in its request word (12.3). -/
def Instr.requestCode : Instr → Option Nat
  | .load _ _ _ _ => some 1
  | .start _ _ _ => some 2
  | .hold _ _ _ => some 3
  | .resume _ _ => some 4
  | .continueHeld _ _ => some 5
  | .skip _ _ => some 6
  | .reelJump _ _ _ => some 7
  | .stop _ _ => some 8
  | .unload _ _ _ => some 9
  | .setLevel _ _ _ _ => some 10
  | .setLipsync _ _ _ => some 11
  | .setRoutes _ _ _ => some 12
  | .setLanguages _ _ _ => some 13
  | .keyAnswer _ _ _ _ => some 14
  | .permitAdd _ _ => some 32
  | .permitRemove _ _ => some 33
  | .permitWipe _ => some 34
  | .clockSet _ _ => some 35
  | .clearEmergency _ => some 48
  | .unknownRequest _ _ code => some code.toNat
  | _ => none

/-- The number of notice places of a sheet's board (R181). -/
def Sheet.boardSize : Sheet → Nat
  | .screen _ => 12
  | .booth => 7
  | .key => 2

/-- A request of each kind that a sheet takes (12.3), as a specimen of its code. -/
def Sheet.requests (sh : Sheet) : List Instr :=
  let r : RequestWord := ⟨0, 0⟩
  match sh with
  | .screen sc =>
    [.load sc r .requestFirst [], .start sc r .requestFirst, .hold sc r .requestFirst, .resume sc r, .continueHeld sc r,
     .skip sc r, .reelJump sc r 0, .stop sc r, .unload sc r .requestFirst, .setLevel sc r 0 [], .setLipsync sc r [],
     .setRoutes sc r [], .setLanguages sc r [], .keyAnswer sc r 0 0]
  | .booth => [.clearEmergency r]
  | .key => [.permitAdd r [], .permitRemove r 0, .permitWipe r, .clockSet r 0]

/-- Whether a request code is known on a sheet (12.3): it is the code of a request that the sheet takes. -/
def Sheet.knowsCode (sh : Sheet) (code : Nat) : Bool := sh.requests.any (fun i => i.requestCode == some code)

end Sys2Proof
end

