-- ==== Sys2Proof/Machine/Bytes.lean ====
section
/-! DEFINITION. Little-endian fields, the check value of R1, and the layout of detail records and reports (R186). -/
namespace Sys2Proof.Machine

/-- A number as `w` bytes, least significant first (Byte order, section 5). -/
def leBytes (v : Nat) : Nat → List Byte
  | 0 => []
  | w + 1 => BitVec.ofNat 8 v :: leBytes (v / 256) w

/-- The number that bytes spell, least significant first. -/
def leNat : List Byte → Nat
  | [] => 0
  | b :: t => b.toNat + 256 * leNat t

/-- The bytes of a list from an offset on, `w` of them at most. -/
def slice (bs : List Byte) (off w : Nat) : List Byte := (bs.drop off).take w

/-- A field of `w` bytes at an offset of a byte list; bytes beyond the list count as 0. -/
def fieldAt (bs : List Byte) (off w : Nat) : Nat := leNat (slice bs off w)

/-- One bit of the reflected division by 0x04C11DB7 (R1). -/
def crcBit (c : BitVec 32) : BitVec 32 :=
  if c.getLsbD 0 then (c >>> 1) ^^^ 0xEDB88320#32 else c >>> 1

/-- One byte of the check value (R1). -/
def crcByte (c : BitVec 32) (b : Byte) : BitVec 32 :=
  crcBit (crcBit (crcBit (crcBit (crcBit (crcBit (crcBit (crcBit (c ^^^ b.setWidth 32))))))))

/-- The check value of bytes in address order (R1). -/
def checkValue (bs : List Byte) : U32 := ~~~ (bs.foldl crcByte 0xFFFFFFFF#32)

/-- The zero bytes up to the next multiple of `w`. -/
def padding (off w : Nat) : Nat := (w - off % w) % w

/-- Fields (width, value) laid out in order from an offset, each at the next multiple of its width (R186). -/
def layoutFrom (off : Nat) : List (Nat × Nat) → List Byte
  | [] => []
  | (w, v) :: t => List.replicate (padding off w) 0 ++ leBytes v w ++ layoutFrom (off + padding off w + w) t

/-- Bytes brought to a length with zeros, or cut there. -/
def padTo (n : Nat) (bs : List Byte) : List Byte := bs.take n ++ List.replicate (n - bs.length) 0

/-- A detail record of a notice place (R186, 12.9): 120 bytes. Offsets are counted from the detail's own first byte, at
4 of the place (DESIGN CHOICE, log 68). -/
def noticeDetail (fields : List (Nat × Nat)) : List Byte := padTo 120 (layoutFrom 0 fields)

/-- The detail of an answer word (12.3): 24 bytes. Offsets are counted from the detail's own first byte, at 4 of the
answer word (DESIGN CHOICE, log 68). -/
def answerDetail (fields : List (Nat × Nat)) : List Byte := padTo 24 (layoutFrom 0 fields)

/-- A member of a repeated group, its size rounded up to a multiple of 8 (R186). -/
def groupMember (fields : List (Nat × Nat)) : List Byte :=
  let bs := layoutFrom 0 fields
  bs ++ List.replicate (padding bs.length 8) 0

/-- The fields and groups of a report, from offset 4 to its closing copy (R186). -/
def reportBody (fields : List (Nat × Nat)) (groups : List (List (Nat × Nat))) : List Byte :=
  let head := layoutFrom 4 fields
  let head := if groups.isEmpty then head else head ++ List.replicate (padding (4 + head.length) 8) 0
  let body := head ++ (groups.map groupMember).flatten
  body ++ List.replicate (padding (4 + body.length) 4) 0

/-- The value none of an index, reel, frame, count or booth time of `w` bytes (R184). -/
def noneCode (w : Nat) : Nat := 256 ^ w - 1

/-- An optional number as a field of `w` bytes. -/
def optField (w : Nat) (v : Option Nat) : Nat × Nat := (w, v.getD (noneCode w))

/-- An optional booth time as a field. -/
def timeField (t : Option U64) : Nat × Nat := optField 8 (t.map (·.toNat))

/-- An optional permit id as a field: none is 0 (R184). -/
def permitField (p : Option U32) : Nat × Nat := (4, (p.map (·.toNat)).getD 0)

/-- A ring as a ring field. -/
def Ring.code : Ring → Nat
  | .r0 => 0 | .r1 => 1 | .r3 => 3

/-- A locator as two fields of 8 bytes (12.2, R186). DESIGN CHOICE (log 82): the ring byte of a locator that the engine
writes is the ring as R184 took it (0, 1 or 3), not the host's byte. -/
def Locator.fields (l : Locator) : List (Nat × Nat) := [(8, l.area + 256 * l.ring.code), (8, l.offset)]

/-- p/q rounded half away from zero, for an even positive q (Rounding, section 5). -/
def roundHalfAway (p : Int) (q : Nat) : Int :=
  if p < 0 then -(((p.natAbs + q / 2) / q : Nat) : Int) else ((p.natAbs + q / 2) / q : Nat)

/-- The ceiling of p/q, for positive q. -/
def ceilDiv (p q : Nat) : Nat := (p + q - 1) / q

end Sys2Proof.Machine
end

