-- ==== Sys2Proof/Machine/Ops.lean ====
section
/-! DEFINITION. The named operations over booth memory, areas, screens and the scanner: reading and writing bytes, area
check, raising notices, answering, and the publication of a step's raisings. -/
namespace Sys2Proof.Machine

/-! ## Booth memory -/

/-- The size of the physical address space of BOOTH BASE and of the area descriptors (R169, R171). -/
def addressSpace : Nat := 2 ^ 64

/-- The byte at an address. DESIGN CHOICE (log 4): a byte nothing has written reads as 0; log 5: addresses wrap. -/
def Mem.read (m : Mem) (a : Nat) : Byte := (FMap.find m (a % addressSpace)).getD 0

/-- One byte written; a zero byte is not listed, so equal memories are equal lists. -/
def Mem.write (m : Mem) (a : Nat) (b : Byte) : Mem :=
  if b = 0 then FMap.erase m (a % addressSpace) else FMap.put m (a % addressSpace) b

/-- Bytes written at rising addresses. -/
def Mem.writeBytes (m : Mem) (a : Nat) : List Byte → Mem
  | [] => m
  | b :: t => Mem.writeBytes (Mem.write m a b) (a + 1) t

/-- `n` bytes read at rising addresses. -/
def Mem.readBytes (m : Mem) (a : Nat) : Nat → List Byte
  | 0 => []
  | n + 1 => Mem.read m a :: Mem.readBytes m (a + 1) n

/-- A little-endian field of `w` bytes (R184). -/
def Mem.field (m : Mem) (a w : Nat) : Nat := leNat (Mem.readBytes m a w)

/-- The host's writes, in order. -/
def Mem.hostStore (m : Mem) : HostWrites → Mem
  | [] => m
  | (a, b) :: t => Mem.hostStore (Mem.write m a.toNat b) t

/-- The canonical form: rising addresses of the address space, and no listed zero byte. -/
abbrev Mem.wf (m : Mem) : Prop :=
  FMap.Sorted m ∧ ∀ p ∈ m, p.1 < addressSpace ∧ p.2 ≠ 0

/-! ## Areas and sheets -/

/-- What a ring may do in an area; ring 0 may read and write (R175). -/
def Area.grants (a : Area) (ring : Ring) (write : Bool) : Bool :=
  match ring, write with
  | .r0, _ => true
  | .r1, false => a.r1Read
  | .r1, true => a.r1Write
  | .r3, false => a.r3Read
  | .r3, true => a.r3Write

/-- Area check (R175): the area exists, the range lies in it, and the ring has the right. -/
def Header.grants (h : Header) (area off len : Nat) (ring : Ring) (write : Bool) : Bool :=
  match h.areas[area]? with
  | none => false
  | some a => decide (off + len ≤ a.length) && a.grants ring write

/-- The physical address of an offset in an area. -/
def Header.addr (h : Header) (area off : Nat) : Nat :=
  match h.areas[area]? with
  | none => off
  | some a => a.base + off

/-- The address a locator names. -/
def Header.locate (h : Header) (l : Locator) : Nat := h.addr l.area l.offset

/-- A sheet's locator (12.2). -/
def Header.sheetLocator (h : Header) : Sheet → Locator
  | .screen sc => (h.screens.get sc).sheet
  | .booth => h.boothSheet
  | .key => h.keySheet

/-- The sheet's own ring (R171). -/
def Header.sheetRing (h : Header) : Sheet → Ring
  | .screen sc => (h.screens.get sc).ring
  | .booth => .r1
  | .key => .r0

/-- The address of a sheet's first byte. -/
def Header.sheetAddr (h : Header) (sh : Sheet) : Nat := h.locate (h.sheetLocator sh)

/-- Whether a sheet is one the scanner scans: the booth sheet, the key sheet and the sheets of enabled screens. -/
def Header.scans (h : Header) : Sheet → Bool
  | .screen sc => (h.screens.get sc).enabled
  | .booth => true
  | .key => true

/-- Offsets of a sheet's parts (12.3). -/
structure SheetLayout where
  seen : Nat
  answer : Nat
  report : Nat
  reportLength : Nat
  board : Nat
  length : Nat
  deriving DecidableEq, Repr

def sheetLayout : Sheet → SheetLayout
  | .screen _ => ⟨256, 8768, 8832, 44, 8896, 10432⟩
  | .booth => ⟨256, 576, 608, 16, 800, 1696⟩
  | .key => ⟨256, 320, 352, 1812, 2176, 2432⟩

/-- The address of a slot of the pool (12.6). -/
def Header.slotAddr (h : Header) (slot : Nat) : Nat := h.locate h.pool + 64 * slot

/-- The addresses of the host part and of the part part of a log page table entry (12.3). -/
def Header.pageHostAddr (h : Header) (page : Nat) : Nat := h.sheetAddr .booth + 320 + 32 * page
def Header.pagePartAddr (h : Header) (page : Nat) : Nat := h.sheetAddr .booth + 672 + 16 * page

/-- The address of a notice place (12.3, 12.9). -/
def Header.noticeAddr (h : Header) (sh : Sheet) (kind : NoticeKind) : Nat :=
  h.sheetAddr sh + (sheetLayout sh).board + 128 * kind.place

/-! ## The card -/

/-- A screen of the card. -/
def Card.scr (c : Card) (sc : Idx4) : Screen := c.screens.get sc

/-- The card with a screen changed. -/
def Card.modScr (c : Card) (sc : Idx4) (f : Screen → Screen) : Card := { c with screens := c.screens.modify sc f }

/-- The card with a screen's sequencer changed. -/
def Card.modSeq (c : Card) (sc : Idx4) (f : Sequencer → Sequencer) : Card :=
  c.modScr sc (fun x => { x with seq := f x.seq })

/-- The card with a screen's picture port changed. -/
def Card.modPort (c : Card) (sc : Idx4) (f : PicturePort → PicturePort) : Card :=
  c.modScr sc (fun x => { x with port := f x.port })

/-- The card with a screen's sound renderer changed. -/
def Card.modSound (c : Card) (sc : Idx4) (f : Sound → Sound) : Card :=
  c.modScr sc (fun x => { x with sound := f x.sound })

/-- The card with a screen's text state changed. -/
def Card.modText (c : Card) (sc : Idx4) (f : TextState → TextState) : Card :=
  c.modScr sc (fun x => { x with text := f x.text })

/-- Whether the engine is RUNNING or STOPPING, the states in which the blocks work (R177, R130). -/
def Card.active (c : Card) : Bool := c.engine == .running || c.engine == .stopping

/-- Whether a screen was enabled at the latest start (R23). -/
def Card.enabled (c : Card) (sc : Idx4) : Bool :=
  match c.header with
  | none => false
  | some h => (h.screens.get sc).enabled

/-- Something handed to the scanner. -/
def Card.publish (c : Card) (p : Publication) : Card := { c with outbox := c.outbox ++ [p] }

/-- A notice raised on a sheet with its detail fields (R181, R186). -/
def Card.raise (c : Card) (sh : Sheet) (kind : NoticeKind) (fields : List (Nat × Nat)) : Card :=
  c.publish (.notice sh kind (noticeDetail fields))

/-- A request settled with a result and detail (R179). -/
def Card.answer (c : Card) (sh : Sheet) (number : U32) (result : AnswerResult) (fields : List (Nat × Nat) := []) :
    Card :=
  c.publish (.answer sh number result.code (answerDetail fields))

/-- Booth notice MEMORY_FAULT (R183). -/
def Card.memoryFault (c : Card) (write : Bool) (place : Nat) (item : FaultItem) (addr : Nat) : Card :=
  c.raise .booth .memoryFault [(1, if write then 2 else 1), (1, place), (1, item.code), (8, addr)]

/-- The booth time, or none while the clock is unset (R149, R151). -/
def Card.boothTime (c : Card) : Option U64 := if c.permits.clockSet then some c.permits.clock else none

/-! ## Bus failures (R183) -/

/-- The failed tries of an access. -/
def Card.busCount (c : Card) (a : BusAccess) : Nat :=
  match c.bus.find? (fun p => p.1 == a) with
  | none => 0
  | some p => p.2

/-- Whether an access has failed all its tries. -/
def Card.busFailed (c : Card) (a : BusAccess) : Bool := decide (Config.busTries ≤ c.busCount a)

/-- The access is over: its tries are forgotten. -/
def Card.busDone (c : Card) (a : BusAccess) : Card := { c with bus := c.bus.filter (fun p => p.1 != a) }

/-- Every access of a set is over: its tries are forgotten. -/
def Card.busForget (c : Card) (drop : BusAccess → Bool) : Card := { c with bus := c.bus.filter (fun p => !drop p.1) }

/-- One more failed try of an access. -/
def Card.busFail (c : Card) (a : BusAccess) : Card :=
  { c with bus := (a, c.busCount a + 1) :: c.bus.filter (fun p => p.1 != a) }

/-! ## The scanner's publications -/

def Scanner.get (x : Scanner) : Sheet → SheetScan
  | .screen sc => x.screens.get sc
  | .booth => x.booth
  | .key => x.key

def Scanner.set (x : Scanner) (sh : Sheet) (v : SheetScan) : Scanner :=
  match sh with
  | .screen sc => { x with screens := x.screens.set sc v }
  | .booth => { x with booth := v }
  | .key => { x with key := v }

/-- A notice place of a sheet; a place nothing was raised on holds its first values. -/
def SheetScan.place (x : SheetScan) (kind : NoticeKind) : NoticePlace := (FMap.find x.places kind.place).getD {}

def SheetScan.setPlace (x : SheetScan) (kind : NoticeKind) (p : NoticePlace) : SheetScan :=
  { x with places := FMap.put x.places kind.place p }

/-- A cause of ATTENTION set (R182). -/
def State.setCause (s : State) (sh : Sheet) : State :=
  { s with window := { s.window with attention := s.window.attention ||| sh.causeBit } }

/-- Bytes written to booth memory. -/
def State.store (s : State) (a : Nat) (bs : List Byte) : State := { s with mem := s.mem.writeBytes a bs }

/-- The write of a notice place begins: the opening copy and the detail are written (R181). -/
def State.beginNotice (s : State) (h : Header) (sh : Sheet) (kind : NoticeKind) : State :=
  let x := s.scan.get sh
  let p := x.place kind
  let a := h.noticeAddr sh kind
  let s := s.store a (leBytes p.count.toNat 4 ++ p.detail)
  { s with scan := s.scan.set sh (x.setPlace kind { p with writing := some p.count, newer := false, retry := false }) }

/-- A raising reaches the scanner (R181): the count goes up, the detail is kept, within the place's 120 bytes for it
(12.9), and the place is written, unless a write of it is in flight or the sheet is not seeded (R172). -/
def State.noticeRaised (s : State) (sh : Sheet) (kind : NoticeKind) (detail : List Byte) : State :=
  let x := s.scan.get sh
  let p := x.place kind
  let p := { p with count := p.count + 1, detail := detail.take 120 }
  let writing := p.writing.isSome
  let p := if writing then { p with newer := true } else p
  let s := { s with scan := s.scan.set sh (x.setPlace kind p) }
  match s.card.header with
  | none => s
  | some h => if x.seeded && !writing then s.beginNotice h sh kind else s

/-- A MEMORY_FAULT that arises in publishing: the write that failed stores no byte (DESIGN CHOICE, log 76). -/
def State.publishFault (s : State) (place : Nat) (item : FaultItem) (addr : Nat) : State :=
  s.noticeRaised .booth .memoryFault (noticeDetail [(1, 2), (1, place), (1, item.code), (8, addr)])

/-- An answer word is written: result and detail, then the number; then the cause is set (R179). -/
def State.publishAnswer (s : State) (h : Header) (sh : Sheet) (number : U32) (result : Nat) (detail : List Byte) :
    State :=
  let a := h.sheetAddr sh + (sheetLayout sh).answer
  if (s.scan.get sh).seeded then
    let failed := s.card.busFailed (.answerWrite sh)
    let s := { s with card := s.card.busDone (.answerWrite sh) }
    if failed then s.publishFault sh.place .answerWord a
    else
      let s := s.store a (leBytes result 2 ++ [0, 0] ++ detail ++ leBytes number.toNat 4)
      s.setCause sh
  else s

/-- A report that its sheet could not take is due again at the next tick: the permit report (R73) and the booth report
(R180). A position report is written at the next boundary anyway. -/
def State.reportAgain (s : State) : Sheet → State
  | .screen _ => s
  | .booth => { s with card := { s.card with boothDue := true } }
  | .key => { s with card := { s.card with permitDue := true } }

/-- A report is written: sequence up by one, opening copy, fields, closing copy (R180). The booth report and the permit
report set their sheet's cause. A permit report whose write fails, and a report of a sheet that is not seeded, is due
again at the next tick (R73, R172). -/
def State.publishReport (s : State) (h : Header) (sh : Sheet) (fields : List (Nat × Nat))
    (groups : List (List (Nat × Nat))) : State :=
  let x := s.scan.get sh
  let a := h.sheetAddr sh + (sheetLayout sh).report
  if x.seeded then
    let q := x.reportSeq + 1
    let failed := s.card.busFailed (.reportWrite sh)
    let s := { s with card := s.card.busDone (.reportWrite sh), scan := s.scan.set sh { x with reportSeq := q } }
    if failed then
      let s := if sh = .key then s.reportAgain sh else s
      s.publishFault sh.place .report a
    else
      let s := s.store a (leBytes q.toNat 4 ++ reportBody fields groups ++ leBytes q.toNat 4)
      match sh with
      | .screen _ => s
      | _ => s.setCause sh
  else s.reportAgain sh

/-- A slot answer is written, result first and generation last (R69). -/
def State.publishSlotAnswer (s : State) (h : Header) (slot : Nat) (gen : U32) (result : Nat) : State :=
  let a := h.slotAddr slot
  let access := BusAccess.slotAnswerWrite (Fin.ofNat 256 slot)
  let failed := s.card.busFailed access
  let s := { s with card := s.card.busDone access }
  if failed then s.publishFault poolPlace .slotAnswerWord (a + 8)
  else s.store (a + 8) (leBytes result 1 ++ [0, 0, 0] ++ leBytes gen.toNat 4)

/-- A log page answer is written, result first and generation last (R157, R158); nothing is written to a booth sheet
that is not seeded (R172). A failed write names the log page as the place (DESIGN CHOICE, log 69). -/
def State.publishPageAnswer (s : State) (h : Header) (page : Nat) (gen : U32) (result : Nat) : State :=
  let access := BusAccess.pageAnswerWrite (Fin.ofNat 8 page)
  if (s.scan.get .booth).seeded then
    let failed := s.card.busFailed access
    let s := { s with card := s.card.busDone access }
    if failed then s.publishFault logPlace .answerWord (h.pagePartAddr page)
    else s.store (h.pagePartAddr page) (leBytes result 2 ++ [0, 0] ++ leBytes gen.toNat 4)
  else s

/-- A page's fill count is written, and its fill generation with it where the page was just taken (R157, R158); nothing
is written to a booth sheet that is not seeded (R172). -/
def State.publishPageFill (s : State) (h : Header) (page fill : Nat) (gen : Option U32) : State :=
  if (s.scan.get .booth).seeded then
    s.store (h.pagePartAddr page + 8) (leBytes fill 4 ++ match gen with | none => [] | some g => leBytes g.toNat 4)
  else s

/-- One publication made. -/
def State.publishOne (s : State) (p : Publication) : State :=
  match s.card.header with
  | none =>
    match p with
    | .notice sh kind detail => s.noticeRaised sh kind detail
    | _ => s
  | some h =>
    match p with
    | .notice sh kind detail => s.noticeRaised sh kind detail
    | .answer sh number result detail => s.publishAnswer h sh number result detail
    | .report sh fields groups => s.publishReport h sh fields groups
    | .slotAnswer slot gen result => s.publishSlotAnswer h slot gen result
    | .pageAnswer page gen result => s.publishPageAnswer h page gen result
    | .pageFill page fill gen => s.publishPageFill h page fill gen
    | .pageRecord addr bytes => s.store addr bytes

/-- Everything the blocks handed the scanner in this step is published, in order. -/
def State.publishAll (s : State) : State :=
  s.card.outbox.foldl State.publishOne { s with card := { s.card with outbox := [] } }

end Sys2Proof.Machine
end

