-- ==== Sys2Proof/Machine/Operands.lean ====
section
/-! DEFINITION. The records that pass through booth memory (chapter 12): each parsed from its bytes, with the checks and
the clamping that chapter 1 and chapter 4 apply when they are read, and the showing record written as bytes. -/
namespace Sys2Proof.Machine

/-! ## Locators, areas and the booth header (12.2) -/

/-- A ring field: bits 1 and 0, with 2 taken as 3 (R184). -/
def ringOf (n : Nat) : Ring :=
  match n % 4 with
  | 0 => .r0
  | 1 => .r1
  | _ => .r3

/-- A locator at an offset of a record. -/
def locatorAt (bs : List Byte) (off : Nat) : Locator :=
  ⟨fieldAt bs off 1, ringOf (fieldAt bs (off + 1) 1), fieldAt bs (off + 8) 8⟩

/-- An area descriptor at an offset of the header. -/
def areaAt (bs : List Byte) (off : Nat) : Area :=
  let rights := BitVec.ofNat 8 (fieldAt bs (off + 16) 1)
  ⟨fieldAt bs off 8, fieldAt bs (off + 8) 8, rights.getLsbD 0, rights.getLsbD 1, rights.getLsbD 2, rights.getLsbD 3⟩

/-- A screen entry at an offset of the header. -/
def screenEntryAt (bs : List Byte) (off : Nat) : ScreenEntry :=
  ⟨fieldAt bs off 1 % 2 == 1, ringOf (fieldAt bs (off + 1) 1), fieldAt bs (off + 4) 4, locatorAt bs (off + 8)⟩

/-- The header's fields, as they stand in its bytes; the area descriptors beyond the area count are not read. -/
def headerOf (bs : List Byte) : Header :=
  { areas := (List.range (fieldAt bs 10 1)).map (fun i => areaAt bs (256 + 32 * i))
    slotCount := fieldAt bs 12 2
    pool := locatorAt bs 16
    boothSheet := locatorAt bs 32
    keySheet := locatorAt bs 48
    screens := ⟨screenEntryAt bs 64, screenEntryAt bs 96, screenEntryAt bs 128, screenEntryAt bs 160⟩ }

/-- The safe and the emergency pattern of each screen (12.2). -/
def safePatternsOf (bs : List Byte) : Quad (BitVec 8) :=
  ⟨bs.getD 192 0, bs.getD 193 0, bs.getD 194 0, bs.getD 195 0⟩
def emergencyPatternsOf (bs : List Byte) : Quad (BitVec 8) :=
  ⟨bs.getD 196 0, bs.getD 197 0, bs.getD 198 0, bs.getD 199 0⟩

/-- A start fault: code and detail (R169, R171). -/
structure StartFault where
  code : Nat
  detail : Nat
  deriving DecidableEq, Repr

/-- BAD_AREA's conditions on one descriptor (R171). -/
def Area.bad (a : Area) : Bool :=
  decide (a.length = 0) || decide (a.length % 64 ≠ 0) || decide (a.length > 2 ^ 32) || decide (a.base % 64 ≠ 0) ||
    decide (a.base + a.length > 2 ^ 64)

/-- BAD_POOL's conditions (R171); the pool locator's ring is not consulted. -/
def Header.badPool (h : Header) : Bool :=
  decide (h.slotCount < 8) || decide (h.slotCount > 256) ||
    !(h.grants h.pool.area h.pool.offset (64 * h.slotCount) .r1 false) ||
    !(h.grants h.pool.area h.pool.offset (64 * h.slotCount) .r1 true)

/-- BAD_SHEET's conditions on one sheet (R171): the host part readable and the report part writable at its ring. -/
def Header.badSheet (h : Header) (sh : Sheet) : Bool :=
  let l := h.sheetLocator sh
  let y := sheetLayout sh
  decide (l.offset % 64 ≠ 0) ||
    !(h.grants l.area l.offset y.length .r0 false) ||
    !(h.grants l.area l.offset y.answer (h.sheetRing sh) false) ||
    !(h.grants l.area (l.offset + y.answer) (y.length - y.answer) (h.sheetRing sh) true) ||
    (match sh with
      | .screen sc =>
        let e := h.screens.get sc
        decide (e.ring = .r0) || !(e.linkRate == 48000 || e.linkRate == 96000)
      | _ => false)

/-- The sheets in the order R171 checks them. -/
def Header.checkedSheets (h : Header) : List Sheet :=
  [.booth, .key] ++ (Idx4.all.filter (fun sc => (h.screens.get sc).enabled)).map Sheet.screen

/-- The checks of R171 on the header's bytes, stopping at the first failure. DESIGN CHOICE (log 62): the detail of a
code for which R171 names no item is 0, here that of BAD_SIGNATURE, BAD_VERSION and BAD_POOL. -/
def startCheck (bs : List Byte) : Option StartFault :=
  let h := headerOf bs
  if slice bs 0 8 ≠ Config.signature then some ⟨1, 0⟩
  else if fieldAt bs 8 2 ≠ 1 then some ⟨2, 0⟩
  else if h.areas.length < 1 ∨ 16 < h.areas.length then some ⟨3, 0xFF⟩
  else
    match h.areas.findIdx? Area.bad with
    | some i => some ⟨3, i⟩
    | none =>
      if h.badPool then some ⟨5, 0⟩
      else
        match h.checkedSheets.find? h.badSheet with
        | some sh => some ⟨4, sh.place⟩
        | none => none

/-! ## Settings (12.4, R11 to R14) -/

/-- A value brought into a range, and whether it was outside it. -/
def clampTo (lo hi v : Nat) : Nat × Bool :=
  if v < lo then (lo, true) else if hi < v then (hi, true) else (v, false)

/-- A disposition byte against the allowed set of its class (R12, R163). -/
def dispositionOf (allowed : List Disposition) (other : Disposition) (code : Nat) : Disposition :=
  match code with
  | 1 => if .hold ∈ allowed then .hold else other
  | 2 => if .conceal ∈ allowed then .conceal else other
  | 3 => if .tally ∈ allowed then .tally else other
  | _ => other

/-- The allowed dispositions of each class (R163). -/
def FaultClass.allowed : FaultClass → List Disposition
  | .pictureUnit | .soundUnit => [.hold, .conceal, .tally]
  | .textUnit => [.conceal, .tally]
  | .linkLost => [.hold, .conceal]
  | .mixClip | .cueDrop => [.tally]

/-- The disposition that stands for one that is not allowed (R12). -/
def FaultClass.fallback : FaultClass → Disposition
  | .linkLost => .conceal
  | _ => .tally

def FaultClass.dispositionOf (k : FaultClass) (code : Nat) : Disposition :=
  Machine.dispositionOf k.allowed k.fallback code

/-- The route count of a settings block, with its CLAMPED flag (R13). -/
def routeCountOf (bs : List Byte) : Nat × Bool := clampTo 0 32 (fieldAt bs 3 1)

/-- One route as the block gives it, with the gain clamped; none if its source or output is out of range (R13). -/
def routeAt (bs : List Byte) (i : Nat) : Option Route × Bool :=
  let source := fieldAt bs (16 + 4 * i) 1
  let output := fieldAt bs (17 + 4 * i) 1
  let gain := clampTo 0 32767 (fieldAt bs (18 + 4 * i) 2)
  if source > 15 ∨ output > 15 then (none, true) else (some ⟨source, output, gain.1⟩, gain.2)

/-- The routes kept and the two CLAMPED flags, of the count and of the routes (R13). -/
def routesOf (bs : List Byte) : List Route × Bool × Bool :=
  let n := routeCountOf bs
  let rs := (List.range n.1).map (routeAt bs)
  (rs.filterMap (·.1), n.2, rs.any (·.2))

/-- The overlay slot field (R13): 0 to 3, or the code 0xFF for none; any other value is none and CLAMPED. -/
def overlayOf (bs : List Byte) : Option Idx4 × Bool :=
  let v := fieldAt bs 4 1
  match Idx4.ofNat? v with
  | some i => (some i, false)
  | none => (none, decide (v ≠ 0xFF))

/-- The caption slot mask (R13): bits beyond the four slots are ignored. -/
def captionsOf (bs : List Byte) : BitVec 4 := BitVec.ofNat 4 (fieldAt bs 5 1)

/-- The show level and lip-sync delay with their CLAMPED flags (R11). -/
def levelOf (bs : List Byte) : Nat × Bool := clampTo 0 16384 (fieldAt bs 6 2)
def lipsyncOf (bs : List Byte) : Nat × Bool := clampTo 0 8191 (fieldAt bs 8 2)

/-- A flag at its bit of the set of clamped settings (R186). -/
def clampBit (bit : Nat) (b : Bool) : ClampFlags := if b then 1#9 <<< bit else 0

/-- The settings block clamped (R11 to R13), with the flags of what was clamped. The recovery depth is clamped against
the clamped preroll depth; a clamped disposition is not flagged (R12). -/
def settingsOf (bs : List Byte) : Settings × ClampFlags :=
  let preroll := clampTo 12 48 (fieldAt bs 0 1)
  let recovery := clampTo 6 preroll.1 (fieldAt bs 1 1)
  let starvation := clampTo 1 60 (fieldAt bs 2 1)
  let routes := routesOf bs
  let overlay := overlayOf bs
  let level := levelOf bs
  let lipsync := lipsyncOf bs
  let disp := fun (k : FaultClass) => k.dispositionOf (fieldAt bs (9 + k.code) 1)
  ({ preroll := preroll.1
     recovery := recovery.1
     starvation := starvation.1
     pictureUnit := disp .pictureUnit
     soundUnit := disp .soundUnit
     textUnit := disp .textUnit
     linkLost := disp .linkLost
     mixClip := disp .mixClip
     cueDrop := disp .cueDrop
     routes := routes.1
     overlay := overlay.1
     captions := captionsOf bs
     level := level.1
     lipsync := lipsync.1 },
   clampBit 0 preroll.2 ||| clampBit 1 recovery.2 ||| clampBit 2 starvation.2 ||| clampBit 3 routes.2.1 |||
     clampBit 4 overlay.2 ||| clampBit 5 level.2 ||| clampBit 6 lipsync.2 ||| clampBit 7 routes.2.2)

/-! ## The show list (12.4) -/

/-- An entry cue at an offset of an entry. -/
def rawCueAt (bs : List Byte) (off : Nat) : RawCue :=
  ⟨fieldAt bs off 1, fieldAt bs (off + 1) 1, fieldAt bs (off + 4) 4, fieldAt bs (off + 8) 2, fieldAt bs (off + 10) 2⟩

/-- A show list entry from its 128 bytes. -/
def rawEntryOf (bs : List Byte) : RawEntry :=
  { kind := fieldAt bs 0 1
    condition := fieldAt bs 1 1
    input := fieldAt bs 2 1
    cueCount := fieldAt bs 3 1
    holdAtMark := fieldAt bs 4 1 % 2 == 1
    seconds := fieldAt bs 6 2
    locator := locatorAt bs 8
    cues := (List.range (min 8 (fieldAt bs 3 1))).map (fun i => rawCueAt bs (32 + 12 * i)) }

/-- The entries of a show list whose count is in range; a larger count leaves them unexamined (R8). -/
def rawEntriesOf (m : Mem) (addr : Nat) : Nat × List RawEntry :=
  let n := m.field addr 1
  (n, if n ≤ 64 then (List.range n).map (fun i => rawEntryOf (m.readBytes (addr + 8 + 128 * i) 128)) else [])

/-! ## Titles (12.5, R3 to R7) -/

/-- The frame rates of R2. -/
def frameRates : List Nat := [24, 25, 30, 48, 60]

/-- The sample periods per frame (R2). -/
def samplesPerFrame (sampleRate frameRate : Nat) : Nat := sampleRate / frameRate

/-- The entry length T of a title (R7). -/
def Title.frames (t : Title) : Nat := (t.reels.map (·.duration)).sum

/-- The starting entry frame S of a reel (R7). -/
def Title.reelStart (t : Title) (reel : Nat) : Nat := ((t.reels.take reel).map (·.duration)).sum

/-- Reel and reel frame of an entry frame over reel durations (R7). -/
def locateFrame (durations : List Nat) (e : Nat) (reel : Nat := 0) : Nat × Nat :=
  match durations with
  | [] => (reel, e)
  | d :: t => if e < d then (reel, e) else locateFrame t (e - d) (reel + 1)

/-- A failure of LOAD (R16): a check with its entry, reel and track indices, or a read refused or failed. -/
inductive LoadFailure where
  | badRecord (failed : Check) (entry reel track : Option Nat)
  | areaFault (entry : Nat)
  | memoryFault (entry : Nat)
  deriving DecidableEq, Repr

/-- A failed check inside a title record: the check with reel and track index. -/
structure TitleFailure where
  failed : Check
  reel : Option Nat := none
  track : Option Nat := none
  deriving DecidableEq, Repr

/-- A track entry's kind with the fields of its kind, from its 16 bytes; none for an unknown kind code or a value the
kind does not allow (R5). -/
def trackKindOf (bs : List Byte) : Except Check TrackKind :=
  match fieldAt bs 0 1 with
  | 1 => .ok .picture
  | 2 =>
    let rate := fieldAt bs 12 4
    let channels := fieldAt bs 2 1
    if (rate = 48000 ∨ rate = 96000) ∧ 1 ≤ channels ∧ channels ≤ 16 then .ok (.sound rate channels)
    else .error .soundFormat
  | 3 =>
    match Idx4.ofNat? (fieldAt bs 2 1) with
    | none => .error .textSlot
    | some slot =>
      let lang := slice bs 12 3
      if lang.all (fun b => decide (0x61 ≤ b.toNat ∧ b.toNat ≤ 0x7A)) then .ok (.text slot lang)
      else .error .textLanguage
  | 4 => .ok .automation
  | _ => .error .trackKind

/-- The line of R4's table that one more track of a kind would break, given the kinds already met in the reel. The kind
is read from the track's bytes: an unknown kind breaks its own line, and a text slot above 3 breaks TEXT_SLOT. -/
def oneTooMany (before : List Track) (bs : List Byte) : Option Check :=
  match fieldAt bs 0 1 with
  | 1 => if before.any (fun t => t.kind = .picture) then some .pictureTrack else none
  | 2 => if before.any (fun t => match t.kind with | .sound _ _ => true | _ => false) then some .soundTrack else none
  | 3 =>
    if before.any (fun t => match t.kind with | .text s _ => decide (s.toNat = fieldAt bs 2 1) | _ => false) then
      some .textSlot
    else none
  | 4 => if before.any (fun t => t.kind = .automation) then some .automationTrack else none
  | _ => some .trackKind

/-- The checks on one track entry in R3's order, given the reel's duration, the title's SEALED flag, the tracks already
met in the reel and the track ids already met in the title. -/
def checkTrack (duration : Nat) (titleSealed : Bool) (before : List Track) (ids : List U32) (bs : List Byte) :
    Except Check Track :=
  match oneTooMany before bs with
  | some k => .error k
  | none =>
    match trackKindOf bs with
    | .error k => .error k
    | .ok kind =>
      let isSealed := fieldAt bs 1 1 % 2 == 1
      let id := BitVec.ofNat 32 (fieldAt bs 4 4)
      if isSealed && (!titleSealed || kind == .automation) then .error .sealedFlag
      else if fieldAt bs 8 4 ≠ duration then .error .trackDuration
      else if id = 0 ∨ id ∈ ids then .error .trackId
      else .ok ⟨kind, id, isSealed⟩

/-- The track entries of one reel in memory order (R3 step 5). -/
def checkTracks (bs : List Byte) (duration : Nat) (titleSealed : Bool) (reel : Nat) :
    Nat → Nat → Nat → List Track → List U32 → Except TitleFailure (List Track × List U32)
  | 0, _, _, done, ids => .ok (done, ids)
  | n + 1, off, k, done, ids =>
    match checkTrack duration titleSealed done ids (slice bs off 16) with
    | .error c => .error ⟨c, some reel, some k⟩
    | .ok t => checkTracks bs duration titleSealed reel n (off + 16) (k + 1) (done ++ [t]) (ids ++ [t.id])

/-- Tracks in the order picture, sound, text in slot order, automation (R4). -/
def orderTracks (ts : List Track) : List Track :=
  ts.filter (fun t => t.kind = .picture) ++
    ts.filter (fun t => match t.kind with | .sound _ _ => true | _ => false) ++
    Idx4.all.flatMap (fun s => ts.filter (fun t => match t.kind with | .text u _ => decide (u = s) | _ => false)) ++
    ts.filter (fun t => t.kind = .automation)

/-- The reels of a title record in reel order (R3 steps 1 to 6). -/
def checkReels (bs : List Byte) (titleSealed : Bool) :
    Nat → Nat → Nat → List Reel → List U32 → Except TitleFailure (List Reel)
  | 0, _, _, done, _ => .ok done
  | n + 1, off, reel, done, ids =>
    if bs.length < off + 8 then .error ⟨.titleLength, some reel, none⟩
    else
      let duration := fieldAt bs off 4
      let tracks := fieldAt bs (off + 4) 1
      if duration < 1 ∨ 1000000 < duration then .error ⟨.reelDuration, some reel, none⟩
      else if tracks < 2 ∨ 7 < tracks then .error ⟨.trackKind, some reel, none⟩
      else if bs.length < off + 8 + 16 * tracks then .error ⟨.titleLength, some reel, none⟩
      else
        match checkTracks bs duration titleSealed reel tracks (off + 8) 0 [] ids with
        | .error f => .error f
        | .ok (ts, ids) =>
          if !ts.any (fun t => t.kind = .picture) then .error ⟨.pictureTrack, some reel, none⟩
          else if !ts.any (fun t => match t.kind with | .sound _ _ => true | _ => false) then
            .error ⟨.soundTrack, some reel, none⟩
          else checkReels bs titleSealed n (off + 8 + 16 * tracks) (reel + 1) (done ++ [⟨duration, orderTracks ts⟩]) ids

/-- The checks on a title record's fixed part (R3). -/
def checkFixedPart (bs : List Byte) : Option Check :=
  let len := fieldAt bs 8 4
  if len < 64 ∨ 65536 < len then some .titleLength
  else if 40 < fieldAt bs 15 1 then some .nameLength
  else if fieldAt bs 12 1 ∉ frameRates then some .frameRate
  else if fieldAt bs 14 1 < 1 ∨ 32 < fieldAt bs 14 1 then some .reelCount
  else none

/-- The title of a record whose fixed part passed (R3 to R6); `bs` is the whole record of the stated length. -/
def checkTitle (bs : List Byte) : Except TitleFailure Title :=
  let isSealed := fieldAt bs 13 1 % 2 == 1
  match checkReels bs isSealed (fieldAt bs 14 1) 64 0 [] [] with
  | .error f => .error f
  | .ok reels => .ok ⟨BitVec.ofNat 64 (fieldAt bs 0 8), fieldAt bs 12 1, isSealed, reels⟩

/-! ## Chunk slots and units (12.6) -/

/-- A chunk header from a slot's 64 bytes. -/
def chunkHeaderOf (bs : List Byte) : ChunkHeader :=
  let flags := BitVec.ofNat 8 (fieldAt bs 55 1)
  { locator := locatorAt bs 16
    load := BitVec.ofNat 32 (fieldAt bs 32 4)
    track := BitVec.ofNat 32 (fieldAt bs 36 4)
    sequence := fieldAt bs 40 4
    length := fieldAt bs 44 4
    check := BitVec.ofNat 32 (fieldAt bs 48 4)
    screen := fieldAt bs 52 1
    entry := fieldAt bs 53 1
    units := fieldAt bs 54 1
    isSealed := flags.getLsbD 0
    isLast := flags.getLsbD 1 }

/-- A unit directory entry (12.6). -/
structure UnitEntry where
  frame : Nat
  offset : Nat
  length : Nat
  check : U32
  deriving DecidableEq, Repr

def unitEntryAt (bs : List Byte) (i : Nat) : UnitEntry :=
  ⟨fieldAt bs (16 * i) 4, fieldAt bs (16 * i + 4) 4, fieldAt bs (16 * i + 8) 4,
    BitVec.ofNat 32 (fieldAt bs (16 * i + 12) 4)⟩

/-- The unit directory of chunk data, if it lies within the chunk and places every unit within the data (R63). -/
def unitDirectory (bs : List Byte) (units : Nat) : Option (List UnitEntry) :=
  if bs.length < 16 * units then none
  else
    let es := (List.range units).map (unitEntryAt bs)
    if es.all (fun e => decide (16 * units ≤ e.offset ∧ 1 ≤ e.length ∧ e.offset + e.length ≤ bs.length)) then some es
    else none

/-- An item of a TEXT unit (12.6). -/
structure TextItem where
  id : U32
  inFrame : Nat
  outFrame : Nat
  fadeIn : Nat
  fadeOut : Nat
  region : Region
  style : BitVec 2
  text : List Byte
  deriving DecidableEq, Repr

/-- The items of a TEXT unit, `n` of them filling the bytes exactly; none is a decode failure (R115). -/
def textItems : Nat → List Byte → Option (List TextItem)
  | 0, bs => if bs.isEmpty then some [] else none
  | n + 1, bs =>
    let len := fieldAt bs 16 1
    if bs.length < 17 + len ∨ len < 1 ∨ 240 < len then none
    else
      match fieldAt bs 14 1 with
      | 1 => (textItems n (bs.drop (17 + len))).map (fun t => item bs .top len :: t)
      | 2 => (textItems n (bs.drop (17 + len))).map (fun t => item bs .bottom len :: t)
      | _ => none
where
  /-- One item's fields. -/
  item (bs : List Byte) (region : Region) (len : Nat) : TextItem :=
    { id := BitVec.ofNat 32 (fieldAt bs 0 4)
      inFrame := fieldAt bs 4 4
      outFrame := fieldAt bs 8 4
      fadeIn := fieldAt bs 12 1
      fadeOut := fieldAt bs 13 1
      region := region
      style := BitVec.ofNat 2 (fieldAt bs 15 1)
      text := slice bs 17 len }

/-- A TEXT unit's items (R115). -/
def textUnit (bs : List Byte) : Option (List TextItem) :=
  let n := fieldAt bs 0 2
  if bs.length < 4 ∨ n < 1 ∨ 64 < n then none else textItems n (bs.drop 4)

/-- An AUTOMATION unit's items (R116). -/
def automationUnit (bs : List Byte) : Option (List AutoCue) :=
  let n := fieldAt bs 0 2
  if n < 1 ∨ 64 < n ∨ bs.length ≠ 4 + 12 * n then none
  else some ((List.range n).map (fun i =>
    let b := bs.drop (4 + 12 * i)
    ⟨fieldAt b 0 4, fieldAt b 4 1, fieldAt b 6 2, fieldAt b 8 2⟩))

/-! ## Permits (12.7) -/

/-- A key entry of the permit argument block. -/
def permitKeyAt (bs : List Byte) (i : Nat) : PermitKey :=
  ⟨BitVec.ofNat 32 (fieldAt bs (40 + 24 * i) 4), BitVec.ofNat 128 (fieldAt bs (40 + 24 * i + 8) 16)⟩

/-- Whether a list of track ids names each once. -/
def distinctTracks : List U32 → Bool
  | [] => true
  | t :: ts => !ts.contains t && distinctTracks ts

/-- The check value of a permit argument block: bytes 0 to 35 and the key count's key entries (12.7). A key count above
7, which 12.7 has no entries for, takes the check over seven (DESIGN CHOICE, log 71). -/
def permitBlockCheck (bs : List Byte) : U32 := checkValue (bs.take 36 ++ slice bs 40 (24 * min 7 (fieldAt bs 5 1)))

/-- PERMIT_ADD's first step (R75): the record, or the field that fails. Where the key count is above 7 the check is
taken over seven key entries (DESIGN CHOICE, log 71). -/
def permitOf (bs : List Byte) : Except Check Permit :=
  let id := BitVec.ofNat 32 (fieldAt bs 0 4)
  let mask := fieldAt bs 4 1
  let keyCount := fieldAt bs 5 1
  let validFrom := fieldAt bs 16 8
  let validUntil := fieldAt bs 24 8
  let perMille := fieldAt bs 32 2
  let keys := (List.range (min 7 keyCount)).map (permitKeyAt bs)
  if permitBlockCheck bs ≠ BitVec.ofNat 32 (fieldAt bs 36 4) then .error .check
  else if id = 0 then .error .permitId
  else if mask = 0 ∨ 15 < mask then .error .screenMask
  else if validUntil ≤ validFrom then .error .window
  else if perMille < 500 ∨ 1000 < perMille then .error .perMille
  else if keyCount < 1 ∨ 7 < keyCount ∨ keys.any (fun k => k.track = 0) ∨ !distinctTracks (keys.map (·.track)) then
    .error .keys
  else
    .ok { id := id
          title := BitVec.ofNat 64 (fieldAt bs 8 8)
          mask := BitVec.ofNat 4 mask
          validFrom := BitVec.ofNat 64 validFrom
          validUntil := BitVec.ofNat 64 validUntil
          allowance := fieldAt bs 6 2
          perMille := perMille
          keys := keys }

/-! ## The record check of a permit (R71, R72, R75) -/

/-- What a permit's record check covers: the fields R71 lists, but for pending and users, in the order and with the
widths of 12.7. The order of the bytes in the card's own memory is the model's choice (log 7). -/
def Permit.content (p : Permit) : List Byte :=
  leBytes p.id.toNat 4 ++ leBytes p.title.toNat 8 ++ leBytes p.mask.toNat 1 ++ leBytes p.validFrom.toNat 8 ++
    leBytes p.validUntil.toNat 8 ++ leBytes p.allowance 2 ++ leBytes p.perMille 2 ++
    p.keys.flatMap (fun k => leBytes k.track.toNat 4 ++ leBytes k.value.toNat 16) ++ leBytes p.state.code 1 ++
    leBytes p.counted 4

/-- The record with its check computed and written (R72). -/
def Permit.withCheck (p : Permit) : Permit := { p with check := checkValue p.content }

/-- Whether the record's check is right (R90). -/
def Permit.checkHolds (p : Permit) : Bool := checkValue p.content == p.check

/-! ## Log pages and showing records (12.3, 12.8) -/

/-- The host part of a log page table entry (12.3). -/
def pageOfferOf (bs : List Byte) : PageOffer := ⟨BitVec.ofNat 32 (fieldAt bs 0 4), locatorAt bs 8⟩

/-- A showing record's 124 bytes before its record check (12.8). -/
def ShowingRecord.body (r : ShowingRecord) : List Byte :=
  padTo 124 (layoutFrom 0
    [(4, r.number.toNat), (1, r.screen.toNat), (1, r.entry), (1, r.state.code),
     (1, match r.endCause with | none => 0 | some k => k.code), (4, r.load.toNat), permitField r.permit,
     (8, r.title.toNat), timeField r.startTime, timeField r.endTime, timeField r.creditTime, (4, r.total),
     (4, r.needed), (4, r.credited), (1, flagCode r.isCredited), (1, 0), (1, 0), (1, 0), (4, r.lost),
     (4, r.pictureFaults), (4, r.soundFaults)])

/-- The record with its check computed and written (R152). -/
def ShowingRecord.withCheck (r : ShowingRecord) : ShowingRecord := { r with check := checkValue r.body }

/-- Whether the record's check is right (R162). -/
def ShowingRecord.checkHolds (r : ShowingRecord) : Bool := checkValue r.body == r.check

/-- A showing record's 128 bytes, with its record check (12.8). -/
def ShowingRecord.bytes (r : ShowingRecord) : List Byte := r.body ++ leBytes r.check.toNat 4

end Sys2Proof.Machine
end

