-- ==== Sys2Proof/Machine/Permits.lean ====
section
/-! DEFINITION. The permit unit (chapter 4): the permit table, permit choice and reservation, the booth clock, keys,
unsealing, and the care of retained state. -/
namespace Sys2Proof.Machine

/-- PERMIT_CHANGE raised (R78), with the permit report due (R73). DESIGN CHOICE (log 49): R186 names no width for a
place number, which cannot exceed 31, and it is given one byte. -/
def Card.permitChanged (c : Card) (id : U32) (place : Nat) (change : PermitChange) (counted : Nat) : Card :=
  { c.raise .key .permitChange [(4, id.toNat), (1, place), (1, change.code), (4, counted)] with permitDue := true }

/-- A place of the table written. Alone it is the change of a users count, which R71 keeps beside the table. -/
def Card.setPlace (c : Card) (place : Nat) (p : Permit) : Card :=
  { c with permits := { c.permits with table := FMap.put c.permits.table place p } }

/-- A change of pending: the record check is not rewritten (R72), and the permit report is due (R73). -/
def Card.putPermit (c : Card) (place : Nat) (p : Permit) : Card := { c.setPlace place p with permitDue := true }

/-- A new record, or a change of counted or state, written with a new record check (R72). -/
def Card.storePermit (c : Card) (place : Nat) (p : Permit) : Card := c.putPermit place p.withCheck

/-- A place of the table cleared (R72). -/
def Card.clearPermit (c : Card) (place : Nat) : Card :=
  { c with permits := { c.permits with table := FMap.erase c.permits.table place }, permitDue := true }

/-- The place and record of a permit id; no two records share one (R71). DESIGN CHOICE (log 55): where a DAMAGED
record's disturbed id equals another record's (R90), an id names the record in the lowest place. -/
def PermitUnit.byId (u : PermitUnit) (id : U32) : Option (Nat × Permit) := u.table.find? (fun x => x.2.id == id)

/-- A permit is in its window at a time (R71). -/
def Permit.inWindow (p : Permit) (t : U64) : Bool :=
  decide (p.validFrom.toNat ≤ t.toNat) && decide (t.toNat < p.validUntil.toNat)

/-- The key of a track in a permit. -/
def Permit.keyOf (p : Permit) (track : U32) : Option (BitVec 128) :=
  (p.keys.find? (fun k => k.track == track)).map (·.value)

/-- The sealed PICTURE and SOUND tracks of a title, in reel order (R81). -/
def Title.sealedTracks (t : Title) : List U32 :=
  t.reels.flatMap (fun r => (r.tracks.filter (fun k =>
    k.isSealed && (match k.kind with | .picture => true | .sound _ _ => true | _ => false))).map (·.id))

/-- The first of R81's four checks that a record fails. -/
def Permit.firstFailure (p : Permit) (sc : Idx4) (clock : U64) (t : Title) : Option ArmRefusal :=
  if !maskHas p.mask sc then some .screen
  else if !p.inWindow clock then some .outsideWindow
  else if !(decide (p.allowance = 0) || decide (p.counted + p.pending < p.allowance)) then some .allowanceSpent
  else if !(t.sealedTracks.all (fun k => (p.keyOf k).isSome)) then some .keyMissing
  else none

/-- The rank of a check in R81's order; a later check has a higher rank (R82). -/
def ArmRefusal.rank : ArmRefusal → Nat
  | .screen => 1 | .outsideWindow => 2 | .allowanceSpent => 3 | .keyMissing => 4
  | _ => 0

/-- A refusal with what ENTRY_REFUSED tells of it (R82). -/
structure ArmFailure where
  reason : ArmRefusal
  permit : Option U32 := none
  track : Option U32 := none
  deriving DecidableEq, Repr

/-- The records R81 examines, in place order: ACTIVE and of the title. -/
def PermitUnit.examined (u : PermitUnit) (t : Title) : List (Nat × Permit) :=
  u.table.filter (fun x => x.2.state == .active && x.2.title == t.id)

/-- The candidate with the earliest valid until, ties to the lowest place (R81). -/
def earliest : List (Nat × Permit) → Option (Nat × Permit)
  | [] => none
  | x :: t =>
    match earliest t with
    | none => some x
    | some y => if y.2.validUntil.toNat < x.2.validUntil.toNat then some y else some x

/-- The refusal when no record is a candidate (R82). -/
def armFailure (sc : Idx4) (clock : U64) (t : Title) (examined : List (Nat × Permit)) : ArmFailure :=
  let fails := examined.filterMap (fun x => (x.2.firstFailure sc clock t).map (fun r => (x.2, r)))
  let latest := fails.foldl (fun n x => max n x.2.rank) 0
  match fails.find? (fun x => x.2.rank == latest) with
  | none => { reason := .noPermit }
  | some (p, r) =>
    { reason := r
      permit := some p.id
      track := if r = .keyMissing then t.sealedTracks.find? (fun k => (p.keyOf k).isNone) else none }

/-- The choice of a permit for a sealed title (R81, R82). -/
def PermitUnit.choose (u : PermitUnit) (sc : Idx4) (t : Title) : Except ArmFailure (Nat × Permit) :=
  if !u.clockSet then .error { reason := .clockUnset }
  else
    let examined := u.examined t
    match earliest (examined.filter (fun x => (x.2.firstFailure sc u.clock t).isNone)) with
    | some x => .ok x
    | none => .error (armFailure sc u.clock t examined)

/-- Reserve (R84): pending and users go up by 1. -/
def Card.reserve (c : Card) (place : Nat) (p : Permit) : Card :=
  c.putPermit place { p with pending := p.pending + 1, users := p.users + 1 }

/-- A RETIRING record whose users count is 0 leaves the table with change GONE (R84). -/
def Card.retire (c : Card) (place : Nat) (p : Permit) : Card :=
  if p.state = .retiring ∧ p.users = 0 then (c.clearPermit place).permitChanged p.id place .gone p.counted else c

/-- A change of the record of a permit id, written by `put`, with R84's retirement after it. -/
def Card.onPermit (c : Card) (id : Option U32) (put : Card → Nat → Permit → Card) (f : Permit → Permit) : Card :=
  match id.bind c.permits.byId with
  | none => c
  | some (place, p) => (put c place (f p)).retire place (f p)

/-- Release (R84): pending and users go down by 1. -/
def Card.release (c : Card) (id : Option U32) : Card :=
  c.onPermit id Card.putPermit (fun p => { p with pending := p.pending - 1, users := p.users - 1 })

/-- Credit (R84, R72): pending goes down by 1, counted goes up by 1 and stops at 4 294 967 295. -/
def Card.creditPermit (c : Card) (id : Option U32) : Card :=
  c.onPermit id Card.storePermit (fun p =>
    { p with pending := p.pending - 1, counted := min Config.maxCount (p.counted + 1) })

/-- End after credit (R84): users goes down by 1, which the permit report does not show (R73). -/
def Card.endAfterCredit (c : Card) (id : Option U32) : Card :=
  c.onPermit id Card.setPlace (fun p => { p with users := p.users - 1 })

/-! ## Key sheet requests (4.2, 4.3) -/

/-- The lowest-numbered free place of the table (R75). -/
def PermitUnit.freePlace (u : PermitUnit) : Option Nat :=
  (List.range Config.permitPlaces).find? (fun i => (FMap.find u.table i).isNone)

/-- PERMIT_ADD (R75): the record check is computed for the new record. The place number of the answer is one byte wide
(log 49). -/
def Card.permitAdd (c : Card) (number : U32) (block : List Byte) : Card :=
  match permitOf block with
  | .error k => c.answer .key number .badRecord [(1, k.code)]
  | .ok p =>
    match c.permits.byId p.id with
    | some _ => c.answer .key number .duplicate
    | none =>
      match c.permits.freePlace with
      | none => c.answer .key number .tableFull
      | some place =>
        ((c.storePermit place p).permitChanged p.id place .added 0).answer .key number .done [(1, place)]

/-- PERMIT_REMOVE (R76). -/
def Card.permitRemove (c : Card) (number : U32) (id : U32) : Card :=
  match c.permits.byId id with
  | none => c.answer .key number .notFound
  | some (place, p) =>
    match p.state with
    | .retiring => c.answer .key number .done [(1, DetailWord.retiring.code)]
    | .damaged => ((c.clearPermit place).permitChanged id place .removed p.counted).answer .key number .done
    | .active =>
      if p.users = 0 then ((c.clearPermit place).permitChanged id place .removed p.counted).answer .key number .done
      else
        ((c.storePermit place { p with state := .retiring }).permitChanged id place .retiring p.counted).answer .key
          number .done [(1, DetailWord.retiring.code)]

/-- PERMIT_WIPE's effect on one record (R77). -/
def Card.wipeOne (c : Card) (x : Nat × Permit) : Card :=
  if x.2.users = 0 then (c.clearPermit x.1).permitChanged x.2.id x.1 .removed x.2.counted
  else if x.2.state = .active then
    (c.storePermit x.1 { x.2 with state := .retiring }).permitChanged x.2.id x.1 .retiring x.2.counted
  else c

/-- PERMIT_WIPE (R77): the detail gives the number removed and the number left RETIRING. DESIGN CHOICE (log 54): the
raisings of PERMIT_CHANGE come in rising place number, so that the notice keeps that of the highest place. -/
def Card.permitWipe (c : Card) (number : U32) : Card :=
  let table := c.permits.table
  (table.foldl Card.wipeOne c).answer .key number .done
    [(1, (table.filter (fun x => x.2.users == 0)).length), (1, (table.filter (fun x => x.2.users != 0)).length)]

/-- The clock takes a value (R80); CLOCK_CHANGE is raised and the permit report is due. -/
def Card.setClock (c : Card) (time : U64) : Card :=
  { c.raise .key .clockChange [timeField c.boothTime, (8, time.toNat)] with
    permits := { c.permits with clock := time, clockSet := true }, permitDue := true }

/-- CLOCK_SET (R80). -/
def Card.requestClock (c : Card) (number : U32) (time : U64) : Card :=
  let old := c.permits.clock
  if c.permits.clockSet ∧ (time.toNat + 600 < old.toNat ∨ old.toNat + 600 < time.toNat) then
    c.answer .key number .clockStep [(8, old.toNat)]
  else (c.setClock time).answer .key number .done

/-- One second of the booth clock (R79). -/
def PermitUnit.second (u : PermitUnit) : PermitUnit := if u.clockSet then { u with clock := u.clock + 1 } else u

/-! ## Keys and unsealing (4.5, 4.6) -/

/-- A text key table entry of a track (R86). -/
def textKeyOf (keys : List TextKey) (track : U32) : Option TextKey := keys.find? (fun k => k.track == track)

/-- The key a permit gives for a track. -/
def Card.permitKey (c : Card) (permit : Option U32) (track : U32) : Option (BitVec 128) :=
  match permit.bind c.permits.byId with
  | none => none
  | some (_, p) => p.keyOf track

/-- The key of a sealed TEXT track: lent, refused, or the chosen permit's (R85). -/
def Card.textKey (c : Card) (sc : Idx4) (permit : Option U32) (track : U32) : Option (BitVec 128) :=
  match textKeyOf (c.scr sc).textKeys track with
  | some ⟨_, _, .lent key _, _⟩ => some key
  | some _ => none
  | none => c.permitKey permit track

/-- The permit KEY_ANSWER VALID takes a key from: the first ACTIVE record, in place order, that meets R87's four
conditions. Allowance is not considered. -/
def PermitUnit.lender (u : PermitUnit) (sc : Idx4) (title : U64) (track : U32) : Option (Permit × BitVec 128) :=
  u.table.findSome? (fun x =>
    if x.2.state = .active ∧ x.2.title = title ∧ maskHas x.2.mask sc ∧ x.2.inWindow u.clock then
      (x.2.keyOf track).map (fun k => (x.2, k))
    else none)

/-- Unsealing: the plain bytes have the length of the sealed ones (R89); each is a free value. -/
def unsealBytes (key : BitVec 128) (bs : List Byte) : List Byte :=
  (List.range bs.length).map (Config.unsealByte key bs)

/-! ## Power-on and engine reset (4.7) -/

/-- One place after an engine reset, and after a power-on that found its record whole (R90, R91): a RETIRING record is
removed, with change GONE owed; pending and users are 0. -/
def zeroPlace (x : Nat × Permit) : Option (Nat × Permit) × List OwedPermitChange :=
  if x.2.state = .retiring then (none, [⟨x.2.id, x.1, PermitChange.gone.code, x.2.counted⟩])
  else (some (x.1, { x.2 with pending := 0, users := 0 }), [])

/-- One place's examination at power-on with the standby supply held (R90): a record whose check fails becomes DAMAGED
with a fresh record check, and change DAMAGED is owed. -/
def examinePlace (x : Nat × Permit) : Option (Nat × Permit) × List OwedPermitChange :=
  if x.2.checkHolds then zeroPlace x
  else
    (some (x.1, ({ x.2 with pending := 0, users := 0, state := .damaged } : Permit).withCheck),
     [⟨x.2.id, x.1, PermitChange.damaged.code, x.2.counted⟩])

/-- The table taken place by place, with the raisings owed in rising place number (DESIGN CHOICE, log 54). -/
def eachPlace (f : Nat × Permit → Option (Nat × Permit) × List OwedPermitChange) (table : FMap Permit) :
    FMap Permit × List OwedPermitChange :=
  let xs := table.map f
  (xs.filterMap (·.1), xs.flatMap (·.2))

/-- The occupied places of the table as a disturbance left them (R72, log 7). -/
def disturbTable (permits : FMap Permit) (table : FMap Permit) : FMap Permit :=
  table.map (fun x => (x.1, (FMap.find permits x.1).getD x.2))

/-- What the permit report shows of the table: all but the users counts (R73). -/
def reportedTable (table : FMap Permit) : FMap Permit := table.map (fun x => (x.1, { x.2 with users := 0 }))

/-- The PERMIT_CHANGE raisings owed since the last RUNNING are made (R90, R91). -/
def Card.raiseOwedPermits (c : Card) : Card :=
  { c.owedPermits.foldl (fun c o =>
      c.raise .key .permitChange [(4, o.permit.toNat), (1, o.place), (1, o.change), (4, o.counted)]) c with
    owedPermits := [] }

/-- The RECORD_LOST owed since the last power-on is raised (R90, R162). -/
def Card.raiseOwedLost (c : Card) : Card :=
  match c.owedLost with
  | none => c
  | some n => { c.raise .booth .recordLost [(1, n)] with owedLost := none }

/-- The fields of the permit report before its places (R73). -/
def PermitUnit.reportFields (u : PermitUnit) : List (Nat × Nat) := [(1, flagCode u.clockSet), (8, u.clock.toNat)]

/-- The fields of one place of the permit report (R73). -/
def permitPlaceFields : Option Permit → List (Nat × Nat)
  | none => [(1, 0), (4, 0), (8, 0), (1, 0), (8, 0), (8, 0), (2, 0), (2, 0), (1, 0), (4, 0), (1, 0), (1, 0)]
  | some p =>
    [(1, 1), (4, p.id.toNat), (8, p.title.toNat), (1, p.mask.toNat), (8, p.validFrom.toNat), (8, p.validUntil.toNat),
     (2, p.allowance), (2, p.perMille), (1, p.state.code), (4, p.counted), (1, p.pending), (1, p.keys.length)]

/-- The permit report handed to the scanner if it is due (R73). -/
def Card.permitReport (c : Card) : Card :=
  if c.permitDue then
    { c with permitDue := false }.publish (.report .key c.permits.reportFields
      ((List.range Config.permitPlaces).map (fun i => permitPlaceFields (FMap.find c.permits.table i))))
  else c

end Sys2Proof.Machine
end

