-- ==== Sys2Proof/Machine/Faults.lean ====
section
/-! DEFINITION. Notices of the show sequencer and fault handling (R22, chapter 10). -/
namespace Sys2Proof.Machine

/-! ## What a screen is playing -/

/-- The current entry of a screen. -/
def Sequencer.entry (q : Sequencer) : Option Entry := q.current.bind (fun i => q.list[i]?)

/-- The title of a show list entry. -/
def Sequencer.titleOf (q : Sequencer) (i : Nat) : Option Title :=
  match q.list[i]? with
  | some { kind := .title k, .. } => q.titles[k]?
  | _ => none

/-- The title of the current entry, if it is a TITLE. -/
def Sequencer.title (q : Sequencer) : Option Title := q.current.bind q.titleOf

/-- The reel durations of an entry: an INTERVAL is one reel of 24 frames a second, a MARK has none (R7, R24). -/
def Sequencer.durations (q : Sequencer) (i : Nat) : List Nat :=
  match q.list[i]? with
  | some { kind := .title k, .. } => match q.titles[k]? with | some t => t.reels.map (·.duration) | none => []
  | some { kind := .interval n, .. } => [24 * n]
  | _ => []

/-- The frames left in the current entry (R24). -/
def Sequencer.framesLeft (q : Sequencer) : Nat :=
  match q.current, q.position with
  | some i, some p => (q.durations i).sum - (((q.durations i).take p.reel).sum + p.frame)
  | some i, none => (q.durations i).sum
  | none, _ => 0

/-- Whether the current entry is a MARK. -/
def Sequencer.atMark (q : Sequencer) : Bool :=
  match q.entry with
  | some { kind := .mark _, .. } => true
  | _ => false

/-- Whether the current entry is an INTERVAL. -/
def Sequencer.atInterval (q : Sequencer) : Bool :=
  match q.entry with
  | some { kind := .interval _, .. } => true
  | _ => false

/-- An entry index as a detail field. -/
def entryField (e : Option Nat) : Nat × Nat := optField 1 e

/-- The detail of STATE_CHANGE (R22). A load number that is none is 0. -/
def Sequencer.changeFields (q : Sequencer) : List (Nat × Nat) :=
  [(1, q.state.codes.1), (1, q.state.codes.2), entryField q.current, (4, (q.loadNumber.map (·.toNat)).getD 0)]

/-- The screen states whose entry clears start-when-ready (R29). -/
def ScreenState.clearsStart : ScreenState → Bool
  | .running | .finished _ | .dark => true
  | _ => false

/-- The screen state changes; STATE_CHANGE is raised if it is a change (R22). Start-when-ready is cleared where the new
state does so (R29). -/
def Card.setState (c : Card) (sc : Idx4) (st : ScreenState) : Card :=
  if (c.scr sc).seq.state = st then c
  else
    let c := c.modSeq sc (fun q => { q with state := st, startWhenReady := q.startWhenReady && !st.clearsStart })
    c.raise (.screen sc) .stateChange (c.scr sc).seq.changeFields

/-- The current entry changes; STATE_CHANGE is raised if it is a change (R22). -/
def Card.setCurrent (c : Card) (sc : Idx4) (e : Option Nat) : Card :=
  if (c.scr sc).seq.current = e then c
  else
    let c := c.modSeq sc (fun q => { q with current := e })
    c.raise (.screen sc) .stateChange (c.scr sc).seq.changeFields

/-! ## Faults (R163 to R166) -/

/-- A fault as it is handed over (R163, R165). -/
structure FaultReport where
  kind : FaultClass
  cause : Option FaultCause
  entry : Option Nat
  reel : Option Nat
  frame : Option Nat
  cue : Option U32 := none
  deriving DecidableEq, Repr

/-- The place of a class and cause among the 17 counts, in the order of R163. -/
def tallyIndex : FaultClass → Option FaultCause → Nat
  | .pictureUnit, some .read => 0
  | .pictureUnit, some .check => 1
  | .pictureUnit, some .late => 2
  | .pictureUnit, _ => 3
  | .soundUnit, some .read => 4
  | .soundUnit, some .length => 5
  | .soundUnit, some .check => 6
  | .soundUnit, some .late => 7
  | .soundUnit, _ => 8
  | .textUnit, some .check => 9
  | .textUnit, some .decode => 10
  | .textUnit, _ => 11
  | .linkLost, _ => 12
  | .mixClip, _ => 13
  | .cueDrop, some .pool => 14
  | .cueDrop, some .late => 15
  | .cueDrop, _ => 16

/-- The disposition of a class in a settings copy. -/
def Settings.disposition (s : Settings) : FaultClass → Disposition
  | .pictureUnit => s.pictureUnit
  | .soundUnit => s.soundUnit
  | .textUnit => s.textUnit
  | .linkLost => s.linkLost
  | .mixClip => s.mixClip
  | .cueDrop => s.cueDrop

/-- One count up by 1, stopping at 4 294 967 295 (R164). -/
def bumpTally (ts : List Nat) (i : Nat) : List Nat := ts.modify i (fun n => min Config.maxCount (n + 1))

/-- The detail of FAULT (R165). -/
def FaultReport.fields (f : FaultReport) (d : Disposition) : List (Nat × Nat) :=
  [(1, f.kind.code), (1, (f.cause.map FaultCause.code).getD 0), (1, d.code), entryField f.entry, optField 1 f.reel,
   optField 4 f.frame] ++ (match f.cue with | none => [] | some i => [(4, i.toNat)])

/-- The fault counted (R165 step 5). -/
def Card.tallyFault (c : Card) (sc : Idx4) (f : FaultReport) : Card :=
  c.modScr sc (fun x => { x with tallies := bumpTally x.tallies (tallyIndex f.kind f.cause) })

/-- A fault judged (R165). -/
def Card.fault (c : Card) (sc : Idx4) (f : FaultReport) : Card :=
  let q := (c.scr sc).seq
  let d := q.settings.disposition f.kind
  if c.auto.latch then c
  else
    match d with
    | .hold =>
      if q.state = .held .fault ∨ q.faultHoldDue then c.tallyFault sc f
      else (c.raise (.screen sc) .fault (f.fields d)).modSeq sc (fun q => { q with faultHoldDue := true })
    | .conceal => c.raise (.screen sc) .fault (f.fields d)
    | .tally => c.tallyFault sc f

/-- The events that report tallies (R166). -/
inductive TallyEvent where
  | reelEnd (reel : Nat)
  | entryEnd
  deriving DecidableEq, Repr

def TallyEvent.fields : TallyEvent → List (Nat × Nat)
  | .reelEnd r => [(1, 1), (1, r)]
  | .entryEnd => [(1, 2), (1, noneCode 1)]

/-- FAULT_TALLY if any count is above 0; then every count is 0 (R166). -/
def Card.reportTallies (c : Card) (sc : Idx4) (e : TallyEvent) : Card :=
  let x := c.scr sc
  if x.tallies.all (· == 0) then c
  else
    let head := match e.fields with
      | [] => []
      | f :: t => f :: entryField x.seq.current :: t
    (c.raise (.screen sc) .faultTally (head ++ x.tallies.map (fun n => (4, n)))).modScr sc
      (fun x => { x with tallies := List.replicate 17 0 })

end Sys2Proof.Machine
end

