-- ==== Sys2Proof/Machine/Counter.lean ====
section
/-! DEFINITION. The showing counter (chapter 9): credit arithmetic, the holding list and log pages. -/
namespace Sys2Proof.Machine

/-- The needed frames of an entry play (R149). -/
def neededFrames (total perMille : Nat) : Nat := ceilDiv (total * perMille) 1000

/-- ARMED and OPEN records (R153). -/
def Counter.inFlight (k : Counter) : Nat := (k.holding.filter (fun r => r.state != .closed)).length

/-- Free places of the holding list. -/
def Counter.freePlaces (k : Counter) : Nat := Config.holdingPlaces - k.holding.length

/-- Records in a state. -/
def Counter.countIn (k : Counter) (st : RecordState) : Nat := (k.holding.filter (fun r => r.state == st)).length

/-- Whether a record is the one in flight of a screen's entry. -/
def ShowingRecord.isFor (r : ShowingRecord) (sc : Idx4) (entry : Nat) : Bool :=
  r.screen == sc && r.entry == entry && r.state != .closed

/-- The record in flight of a screen's entry. -/
def Counter.recordOf (k : Counter) (sc : Idx4) (entry : Nat) : Option ShowingRecord :=
  k.holding.find? (fun r => r.isFor sc entry)

/-- The record in flight of a screen's entry changed, with a new record check (R152). -/
def Counter.modRecord (k : Counter) (sc : Idx4) (entry : Nat) (f : ShowingRecord → ShowingRecord) : Counter :=
  { k with holding := k.holding.map (fun r => if r.isFor sc entry then (f r).withCheck else r) }

/-- The fields of the booth report (R180). -/
def Card.boothReportFields (c : Card) : List Nat :=
  [c.auto.inputs.toNat, flagCode c.auto.emergencySample, flagCode c.auto.latch, c.counter.countIn .armed,
   c.counter.countIn .opened, c.counter.countIn .closed, c.counter.freePlaces]

/-- The card `d` that a change of `c` gives, with the booth report due where one of its fields has changed (R180). -/
def Card.noteBooth (c d : Card) : Card :=
  { d with boothDue := d.boothDue || decide (d.boothReportFields ≠ c.boothReportFields) }

/-- The card with its counter changed. -/
def Card.modCounter (c : Card) (f : Counter → Counter) : Card := c.noteBooth { c with counter := f c.counter }

/-- The credit per mille of an entry: the chosen permit's, or 900 (R149). -/
def Card.perMille (c : Card) (permit : Option U32) : Nat :=
  match permit.bind c.permits.byId with
  | some (_, p) => p.perMille
  | none => 900

/-- Whether a new ARMED record may be made (R153): with u free places and a records in flight, u − 1 ≥ a + 1. -/
def Counter.mayCreate (k : Counter) : Bool := decide (k.inFlight + 2 ≤ k.freePlaces)

/-- A new ARMED record (R153), for an entry of the screen's title under a permit. -/
def Card.createRecord (c : Card) (sc : Idx4) (entry : Nat) (t : Title) (permit : Option U32) : Card :=
  let k := c.counter
  let r : ShowingRecord :=
    { number := k.nextNumber
      screen := sc
      load := (c.scr sc).seq.loadNumber.getD 0
      entry := entry
      title := t.id
      permit := permit
      total := t.frames
      needed := neededFrames t.frames (c.perMille permit) }
  c.modCounter (fun k => { k with holding := k.holding ++ [r.withCheck], nextNumber := k.nextNumber + 1 })

/-- The ARMED record of an entry that is dropped goes (R154). -/
def Card.removeRecord (c : Card) (sc : Idx4) (entry : Nat) : Card :=
  c.modCounter (fun k => { k with holding := k.holding.filter (fun r => !(r.isFor sc entry && r.state == .armed)) })

/-- The entry starts: its record is OPEN with its start time, and the entry play tally is set up (R149, R154). -/
def Card.openRecord (c : Card) (sc : Idx4) (entry : Nat) (t : Title) (permit : Option U32) : Card :=
  match c.counter.recordOf sc entry with
  | none => c
  | some r =>
    let play : PlayTally :=
      { record := r.number, entry := entry, total := r.total, perMille := c.perMille permit, needed := r.needed
        reels := t.reels.map (fun _ => {}) }
    c.modCounter (fun k =>
      { k.modRecord sc entry (fun r => { r with state := .opened, startTime := c.boothTime }) with
        plays := k.plays.set sc (some play) })

/-- The credit of an entry play (R151). -/
def Card.makeCredit (c : Card) (sc : Idx4) (entry : Nat) (permit : Option U32) (play : PlayTally) : Card :=
  let time := c.boothTime
  let c := c.modCounter (fun k => k.modRecord sc entry (fun r => { r with isCredited := true, creditTime := time }))
  let c := c.creditPermit permit
  c.raise (.screen sc) .credited
    [(1, entry), permitField permit, (4, play.needed), (4, play.credited), timeField time]

/-- A reel's counts after one more delivered frame of it (R150). -/
def ReelCount.deliver (k : ReelCount) (frame : Nat) : ReelCount :=
  let pass := match k.last with
    | none => 1
    | some l => if l < frame then k.pass + 1 else 1
  { pass := pass, best := max k.best pass, last := some frame }

/-- An entry play tally after a delivered frame (R150). -/
def PlayTally.deliver (p : PlayTally) (reel frame : Nat) : PlayTally :=
  let reels := p.reels.modify reel (fun k => k.deliver frame)
  { p with reels := reels, credited := (reels.map (·.best)).sum }

/-- A delivered frame handed over by the picture port (R150, R151). -/
def Card.deliveredFrame (c : Card) (sc : Idx4) (f : Presented) : Card :=
  let q := (c.scr sc).seq
  match c.counter.plays.get sc with
  | none => c
  | some play =>
    if q.started ∧ q.current = some f.entry ∧ play.entry = f.entry then
      let play := play.deliver f.reel f.frame
      let due := !play.isCredited && decide (play.needed ≤ play.credited)
      let play' := { play with isCredited := play.isCredited || due }
      let c := c.modCounter (fun k =>
        { k.modRecord sc f.entry (fun r => { r with credited := play.credited }) with
          plays := k.plays.set sc (some play') })
      if due then c.makeCredit sc f.entry ((q.list[f.entry]?).bind (·.permit)) play else c
    else c

/-- A SOUND_UNIT fault of a started TITLE entry's frame adds 1 to the record's count (R152). DESIGN CHOICE (log 81): the
counts of sound faults, lost frames and picture faults rise without a bound, and the low 32 bits of each are written. -/
def Card.countSoundFault (c : Card) (sc : Idx4) (entry : Nat) : Card :=
  if (c.scr sc).seq.started then
    c.modCounter (fun k => k.modRecord sc entry (fun r => { r with soundFaults := r.soundFaults + 1 }))
  else c

/-- The started TITLE entry ends: the port's counts are handed over and set to 0, and the record is CLOSED (R137,
R155). -/
def Card.closeRecord (c : Card) (sc : Idx4) (entry : Nat) (cause : EndCause) : Card :=
  let port := (c.scr sc).port
  let c := c.modPort sc (fun p => { p with delivered := 0, lost := 0, faulted := 0 })
  let time := c.boothTime
  let c := c.modCounter (fun k =>
    { k.modRecord sc entry (fun r =>
        { r with lost := port.lost, pictureFaults := port.faulted, endTime := time, endCause := some cause
                 state := .closed }) with
      plays := k.plays.set sc none })
  { c with seekDue := true }

/-- Whether the entry play of a screen has been credited. -/
def Card.playCredited (c : Card) (sc : Idx4) : Bool :=
  match c.counter.plays.get sc with
  | some p => p.isCredited
  | none => false

/-! ## Log pages (9.4) -/

/-- A page record changed. -/
def Counter.modPage (k : Counter) (i : Nat) (f : PageRecord → PageRecord) : Counter :=
  { k with pages := k.pages.modify i f }

/-- Whether a log page entry is offered (R156). -/
def Counter.pageOffered (k : Counter) (i : Nat) : Bool :=
  match k.offers[i]?, k.pages[i]? with
  | some o, some p => decide (o.gen ≠ 0) && !p.seedPending && decide (p.answered ≠ some o.gen)
  | _, _ => false

/-- A log page answered: the page record keeps the generation (R157, R158). -/
def Card.answerPage (c : Card) (page : Nat) (gen : U32) (r : PageResult) : Card :=
  (c.modCounter (fun k => k.modPage page (fun p => { p with answered := some gen }))).publish
    (.pageAnswer page gen r.code)

/-- The oldest CLOSED record (R155). -/
def Counter.oldestClosed (k : Counter) : Option ShowingRecord := k.holding.find? (fun r => r.state == .closed)

/-- The ring of every access to a log page: the larger of 1 and the locator's (R175). -/
def Locator.logRing (l : Locator) : Ring := Ring.max .r1 l.ring

/-- The number of the record in a place of a full page, for LOG_PAGE_FULL (R158): the one the card wrote there itself
while the page was current, or else what the page's ring reads in it. Where the area grants that ring no read, none is
made (R175) and the number is a free value (log 41). DESIGN CHOICE (log 67): this read never fails on the bus. -/
def Header.numberInPage (h : Header) (m : Mem) (page : Nat) (gen : U32) (l : Locator) (place : Nat)
    (written : Option U32) : Nat :=
  match written with
  | some n => n.toNat
  | none =>
    if h.grants l.area l.offset 4096 l.logRing false then m.field (h.locate l + 128 * place) 4
    else (Config.unreadRecordNumber page gen place).toNat

/-- A full page is answered FULL and given up, with LOG_PAGE_FULL (R158). `first` and `last` are the numbers the card
wrote into places 0 and 31 itself. The table index is one byte wide, a width that R186 does not name (DESIGN CHOICE,
log 49). -/
def Card.pageFull (c : Card) (m : Mem) (h : Header) (page : Nat) (gen : U32) (l : Locator) (first last : Option U32) :
    Card :=
  let c := (c.answerPage page gen .full).raise .booth .logPageFull
    [(1, page), (4, gen.toNat), (4, h.numberInPage m page gen l 0 first), (4, h.numberInPage m page gen l 31 last)]
  c.modCounter (fun k => { k with current := none })

/-- The writes of a page are over: their tries are forgotten (R183). -/
def Card.forgetPageWrites (c : Card) (page : Nat) : Card :=
  c.busForget (fun a => a == .recordWrite || a == .fillWrite (Fin.ofNat 8 page) ||
    a == .fillGenWrite (Fin.ofNat 8 page))

/-- A page given up after a write that failed (R158). DESIGN CHOICE (log 75): this is an end of a page (R157), so that a
page is sought at once. MEMORY_FAULT names the log page as the place of the fault, also for the fill count and
generation, which lie in the booth sheet (DESIGN CHOICE, log 69). -/
def Card.pageWriteFault (c : Card) (page : Nat) (gen : U32) (item : FaultItem) (addr : Nat) : Card :=
  let c := ((c.forgetPageWrites page).memoryFault true logPlace item addr).answerPage page gen .writeFault
  { c.modCounter (fun k => { k with current := none, writing := none }) with seekDue := true }

/-- What considering one entry of the log page table comes to (R157, R158): it is passed over, its page is the current
page, or its page was taken and given up at once. -/
inductive PageLook where
  | passedOver
  | taken
  | givenUp
  deriving DecidableEq, Repr

/-- A page whose fill generation is not the offered one is taken (R157): the fill count 0 is written, then the fill
generation; either write can fail on its own (R158). -/
def Card.takeFreshPage (c : Card) (h : Header) (i : Nat) (o : PageOffer) : Card × PageLook :=
  let part := h.pagePartAddr i
  if c.busFailed (.fillWrite (Fin.ofNat 8 i)) then (c.pageWriteFault i o.gen .fillCount (part + 8), .givenUp)
  else if c.busFailed (.fillGenWrite (Fin.ofNat 8 i)) then
    ((c.publish (.pageFill i 0 none)).pageWriteFault i o.gen .fillCount (part + 12), .givenUp)
  else
    (((c.forgetPageWrites i).modCounter (fun k =>
        { k with current := some { page := i, gen := o.gen, fill := 0, locator := o.locator } })).publish
      (.pageFill i 0 (some o.gen)), .taken)

/-- One entry of the log page table considered (R157). A failed read of its fill count names the log page as the place
(DESIGN CHOICE, log 69). -/
def Card.considerPage (c : Card) (m : Mem) (h : Header) (i : Nat) : Card × PageLook :=
  match c.counter.offers[i]? with
  | none => (c, .passedOver)
  | some o =>
    if !c.counter.pageOffered i then (c, .passedOver)
    else if !h.grants o.locator.area o.locator.offset 4096 o.locator.logRing true then
      (c.answerPage i o.gen .areaFault, .passedOver)
    else
      let access := BusAccess.fillRead (Fin.ofNat 8 i)
      let part := h.pagePartAddr i
      if c.busFailed access then ((c.busDone access).memoryFault false logPlace .fillCount (part + 8), .passedOver)
      else
        let c := c.busDone access
        let fill := m.field (part + 8) 4
        let fillGen := BitVec.ofNat 32 (m.field (part + 12) 4)
        let c := c.modCounter (fun k => { k with lastPage := i, waiting := false })
        if fillGen = o.gen ∧ fill ≤ 31 then
          (c.modCounter (fun k =>
            { k with current := some { page := i, gen := o.gen, fill := fill, locator := o.locator } }), .taken)
        else if fillGen = o.gen ∧ fill = 32 then (c.pageFull m h i o.gen o.locator none none, .givenUp)
        else c.takeFreshPage h i o

/-- One search over table entries in a given order, up to the first page taken (R157). -/
def Card.seekIn (c : Card) (m : Mem) (h : Header) : List Nat → Card × PageLook
  | [] => (c, .passedOver)
  | i :: t =>
    match c.considerPage m h i with
    | (c, .passedOver) => Card.seekIn c m h t
    | r => r

/-- The order of a search: from the entry after the last page used, round to that page (R157). -/
def Counter.seekOrder (k : Counter) : List Nat :=
  (List.range Config.logPages).map (fun i => (k.lastPage + 1 + i) % Config.logPages)

/-- The searches made together (R157, R158): a page given up as soon as it was taken is followed by a search of its own.
Each page given up is answered, so that no more searches than pages can end so. -/
def Card.seekPages (c : Card) (m : Mem) (h : Header) : Nat → Card × Bool
  | 0 => (c, false)
  | n + 1 =>
    match c.seekIn m h c.counter.seekOrder with
    | (c, .taken) => (c, true)
    | (c, .passedOver) => (c, false)
    | (c, .givenUp) => Card.seekPages c m h n

/-- The search for a page, with LOG_WAITING at the first search of a wait that finds none (R157, R159). -/
def Card.seekPage (c : Card) (m : Mem) : Card :=
  match c.header with
  | none => c
  | some h =>
    if c.active ∧ c.counter.current = none ∧ c.counter.oldestClosed.isSome then
      match c.seekPages m h (Config.logPages + 1) with
      | (c, true) => c
      | (c, false) =>
        if c.counter.waiting then c
        else
          (c.raise .booth .logWaiting [(1, c.counter.countIn .closed), (1, c.counter.freePlaces)]).modCounter
            (fun k => { k with waiting := true })
    else c

/-- The host part of the table read at a tick (R156): a current page whose offer changed is withdrawn, and the write in
flight to it abandoned with its tries (R158, R183). -/
def Card.readLogTable (c : Card) (m : Mem) (h : Header) : Card :=
  if c.busFailed .logTable then
    (c.busDone .logTable).memoryFault false Sheet.booth.place .logTable (h.pageHostAddr 0)
  else
    let offers := (List.range Config.logPages).map (fun i => pageOfferOf (m.readBytes (h.pageHostAddr i) 24))
    let c := (c.busDone .logTable).modCounter (fun k => { k with offers := offers })
    match c.counter.current with
    | none => c
    | some p =>
      if (offers[p.page]?).map (·.gen) = some p.gen then c
      else (c.forgetPageWrites p.page).modCounter (fun k => { k with current := none, writing := none })

/-- A record write begins (R158): the oldest CLOSED record goes, with its record check, into the place numbered by the
fill count. DESIGN CHOICE (log 66): all 128 bytes lie in booth memory from here on, also where the write is abandoned or
fails later. -/
def Card.beginRecordWrite (c : Card) : Card :=
  match c.header, c.counter.current, c.counter.oldestClosed with
  | some h, some p, some r =>
    if c.active ∧ c.counter.writing = none ∧ p.fill < Config.recordsPerPage then
      ((c.busDone .recordWrite).modCounter (fun k => { k with writing := some (r.number, p.fill) })).publish
        (.pageRecord (h.locate p.locator + 128 * p.fill) r.bytes)
    else c
  | _, _, _ => c

/-- The fill count write ends a record write (R158). -/
def Card.endRecordWrite (c : Card) (m : Mem) : Card :=
  match c.header, c.counter.current, c.counter.writing with
  | some h, some p, some (number, place) =>
    let access := BusAccess.fillWrite (Fin.ofNat 8 p.page)
    if c.busFailed access then
      (c.busDone access).pageWriteFault p.page p.gen .fillCount (h.pagePartAddr p.page + 8)
    else
      let fill := place + 1
      let first := if place = 0 then some number else p.first
      let c := (c.busDone access).publish (.pageFill p.page fill none)
      let c := c.modCounter (fun k =>
        { k with holding := k.holding.filter (fun r => !(r.number == number && r.state == .closed))
                 writing := none, current := some { p with fill := fill, first := first } })
      if fill = Config.recordsPerPage then
        { c.pageFull m h p.page p.gen p.locator first (some number) with seekDue := true }
      else c
  | _, _, _ => c

/-! ## Reports, stops, resets and power-on -/

/-- The booth report handed to the scanner at the tick after a change of its fields (R180). -/
def Card.boothReport (c : Card) : Card :=
  if c.boothDue then
    { c with boothDue := false }.publish (.report .booth (c.boothReportFields.map (fun v => (1, v))) [])
  else c

/-- The counter's part of the stop is complete (R160). -/
def Counter.stopDone (k : Counter) : Bool :=
  k.holding.all (fun r => r.state == .closed) && k.writing.isNone && (k.holding.isEmpty || k.waiting)

/-- The counter after an engine reset (R161): OPEN records close as ENGINE_RESET, ARMED records go, the working items
take the values of R148, and the view of the page table is emptied (log 80). -/
def Counter.engineReset (k : Counter) (now : Option U64) : Counter :=
  { holding := (k.holding.filter (fun r => r.state != .armed)).map (fun r =>
      if r.state = .opened then
        ({ r with state := .closed, endCause := some .engineReset, endTime := now } : ShowingRecord).withCheck
      else r)
    nextNumber := k.nextNumber }

/-- The counter when the engine enters OFF: the records and their number counter stay, the rest is discarded (R148,
R160), the view of the page table with it (log 80). -/
def Counter.enterOff (k : Counter) : Counter := { holding := k.holding, nextNumber := k.nextNumber }

/-- The records of the holding list as a disturbance left them, by their place in the list (R152, log 7). -/
def disturbHolding (records : FMap ShowingRecord) (list : List ShowingRecord) : List ShowingRecord :=
  list.zipIdx.map (fun x => (FMap.find records x.2).getD x.1)

/-- The counter after power-on with the standby supply held (R162): a record whose check fails is dropped. The second
part is the number of records dropped for that. -/
def Counter.powerOn (k : Counter) : Counter × Nat :=
  let kept := k.holding.filter ShowingRecord.checkHolds
  ({ holding := (kept.filter (fun r => r.state != .armed)).map (fun r =>
       if r.state = .opened then
         ({ r with state := .closed, endCause := some .interrupted, endTime := none } : ShowingRecord).withCheck
       else r)
     nextNumber := k.nextNumber },
   k.holding.length - kept.length)

end Sys2Proof.Machine
end

