-- ==== Sys2Proof/Machine/Sound.lean ====
section
/-! DEFINITION. The sound renderer (chapter 5): rate conversion, route mix, delay, master fader and lip-sync dips. -/
namespace Sys2Proof.Machine

/-! ## Rate conversion and mix (R100 to R102) -/

/-- The value of a sample. -/
def Sample.value (v : Sample) : Int := v.toInt

/-- The source sample of a channel at a source period (R97); beyond the unit's bytes it is 0. -/
def SoundFeed.source (f : SoundFeed) (i ch : Nat) : Int :=
  (BitVec.ofNat 24 (fieldAt f.bytes (3 * (i * f.channels + ch)) 3)).toInt

/-- The converted sample of a channel for link sample period `j` (R100); a source at or beyond the channel count
contributes 0 (R101). -/
def SoundFeed.converted (f : SoundFeed) (linkRate j ch : Nat) : Int :=
  if f.channels ≤ ch then 0
  else if f.rate = linkRate then f.source j ch
  else if f.rate = 96000 then roundHalfAway (f.source (2 * j) ch + f.source (2 * j + 1) ch) 2
  else f.source (j / 2) ch

/-- The accumulator of an output: the exact sum over its routes (R102 step 1). -/
def mixSum (routes : List Route) (src : Nat → Int) (o : Nat) : Int :=
  ((routes.filter (fun r => r.output == o)).map (fun r => src r.source * (r.gain : Int))).sum

/-- The largest and smallest sample (Samples, section 5). -/
def sampleMax : Int := 8388607
def sampleMin : Int := -8388608

/-- The mixed value saturated, and whether it had to be (R102 steps 2 and 3). -/
def saturate (v : Int) : Int × Bool :=
  if sampleMax < v then (sampleMax, true) else if v < sampleMin then (sampleMin, true) else (v, false)

/-- The mixed value of an output in a sample period. -/
def Sound.mixed (x : Sound) (o : Nat) : Int × Bool :=
  match x.feed with
  | none => (0, false)
  | some f => saturate (roundHalfAway (mixSum x.routes (f.converted x.linkRate x.count) o) 16384)

/-! ## Delay (R103) -/

/-- The key of place `w` of output `o` in the delay line. -/
def lineKey (w o : Nat) : Nat := 16 * w + o

/-- The sample at a place of the delay line. -/
def lineRead (line : FMap Sample) (w o : Nat) : Sample := (FMap.find line (lineKey w o)).getD 0

/-- A sample written at a place; a zero sample is not listed. -/
def lineWrite (line : FMap Sample) (w o : Nat) (v : Sample) : FMap Sample :=
  if v = 0 then FMap.erase line (lineKey w o) else FMap.put line (lineKey w o) v

/-- The place read with a delay (R103 step 2). -/
def delayedPlace (w d : Nat) : Nat := (w + Config.delayPlaces - d % Config.delayPlaces) % Config.delayPlaces

/-- The mixed values of the sixteen outputs written at the write index. -/
def Sound.writeLine (x : Sound) : FMap Sample :=
  (List.range 16).foldl (fun l o => lineWrite l x.write o (BitVec.ofInt 24 (x.mixed o).1)) x.line

/-! ## Master fader (R104, R105) -/

/-- The length of a mute or unmute in sample periods (R104). -/
def muteLength (linkRate : Nat) : Nat := if linkRate = 96000 then 192 else 96

/-- The step k for a change from m to t over n sample periods (R104). -/
def rampStep (t m n : Nat) : Nat :=
  let d := (t - m) + (m - t)
  if n = 0 then max 1 d else max 1 (ceilDiv d n)

/-- The target takes a value over n sample periods; an unchanged target leaves the step in force (R104). -/
def Sound.aim (x : Sound) (t n : Nat) : Sound :=
  if x.target = t then x else { x with target := t, step := rampStep t x.master n }

/-- One step of the master towards its target (R105). -/
def masterStep (m t k : Nat) : Nat := if m < t then min t (m + k) else if t < m then max t (m - k) else m

/-- A delayed value scaled by the master (R105). -/
def scaleMaster (v : Int) (m : Nat) : Int := roundHalfAway (v * (m : Int)) 16384

/-- Whether one of the first, second and fourth conditions of R104 holds: not RUNNING, an INTERVAL, the latch. -/
def Card.mutedOutside (c : Card) (sc : Idx4) : Bool :=
  (c.scr sc).seq.state != .running || (c.scr sc).seq.atInterval || c.auto.latch

/-- The effective target (R104). -/
def Card.effectiveTarget (c : Card) (sc : Idx4) : Nat :=
  if c.mutedOutside sc || (c.scr sc).sound.dip == .down then 0 else (c.scr sc).sound.level

/-- The target of a screen settled after the events of a step: a muting condition that began or ended sets it over 96
sample periods, or 192 at 96 000 Hz (R104). -/
def Card.settleTarget (c : Card) (sc : Idx4) : Card :=
  let t := c.effectiveTarget sc
  c.modSound sc (fun x => x.aim t (muteLength x.linkRate))

/-- The targets of the four screens settled. -/
def Card.settleTargets (c : Card) : Card := Idx4.all.foldl Card.settleTarget c

/-- A new show level with its fade time in ms (R106): at once when no condition of R104 holds, else the fade time is
discarded. DESIGN CHOICE (log 50): where a LEVEL cue meets an unmuting event at one boundary, and R107 lets either be
taken first, the cue finds the unmuting already taken (Card.blockWork). -/
def Card.setLevel (c : Card) (sc : Idx4) (level fade : Nat) : Card :=
  let free := !(c.mutedOutside sc || (c.scr sc).sound.dip == .down)
  c.modSound sc (fun x =>
    let x := { x with level := level }
    if free then
      { x.aim level (fade * x.linkRate / 1000) with fadeOut := x.fadeOut || (level == 0 && x.target != 0) }
    else x)

/-- A muting condition that begins at the boundary at which a SET_LEVEL has set the target to 0 (R107): the target
becomes 0 over the length of a mute, as it does where the condition comes first. `free` says that none of the conditions
held before the sequencer's work. -/
def Card.muteFade (c : Card) (sc : Idx4) (free : Bool) : Card :=
  c.modSound sc (fun x =>
    if free && c.mutedOutside sc && x.fadeOut then { x with step := rampStep 0 x.master (muteLength x.linkRate) }
    else x)

/-- A LEVEL cue (R106): level and fade time clamped by their upper ends. -/
def Card.levelCue (c : Card) (sc : Idx4) (level fade : Nat) : Card := c.setLevel sc (min 16384 level) (min 10000 fade)

/-! ## Lip-sync dips (R108, R109) -/

/-- A new delay (R108). -/
def Sound.setDelay (x : Sound) (d : Nat) : Sound :=
  match x.dip with
  | .none =>
    if x.master = 0 then { x with delay := d }
    else ({ x with pendingDelay := some d, dip := .down } : Sound).aim 0 (muteLength x.linkRate)
  | .down => { x with pendingDelay := some d }
  | .up =>
    { x with pendingDelay := some d, dip := .down, target := 0, step := rampStep 0 x.master (muteLength x.linkRate) }

/-- The end of UP, where m equals t (R109). -/
def Sound.endUp (x : Sound) : Sound := if x.dip = .up ∧ x.master = x.target then { x with dip := .none } else x

/-- The end of DOWN, where m is 0 (R109): the pending delay is applied, the dip is UP towards the effective target
without the DOWN condition, and passes to NONE at once where m already equals it. -/
def Sound.endDown (x : Sound) (t : Nat) : Sound :=
  if x.dip = .down ∧ x.master = 0 then
    (({ x with delay := x.pendingDelay.getD x.delay, pendingDelay := none, dip := .up } : Sound).aim t
      (muteLength x.linkRate)).endUp
  else x

/-- The effective target of a screen without the DOWN condition (R109). -/
def Card.targetAfterDown (c : Card) (sc : Idx4) : Nat := if c.mutedOutside sc then 0 else (c.scr sc).sound.level

/-! ## The sample period (R93, R100 to R105) -/

/-- One link sample period of the renderer, less the dip's ends: mix, delay line, master step, and the sample frame
sent, which is all zeros while the engine is OFF, STARTING or FAULTED (R93). -/
def Sound.period1 (x : Sound) (sending : Bool) : Sound :=
  let line := x.writeLine
  let m := masterStep x.master x.target x.step
  let outs := (List.range 16).map (fun o =>
    BitVec.ofInt 24 (scaleMaster (lineRead line (delayedPlace x.write x.delay) o).toInt m))
  { x with
    line := line
    write := (x.write + 1) % Config.delayPlaces
    master := m
    count := x.count + 1
    sent := if sending then outs else List.replicate 16 0 }

/-- The number of outputs saturated in a sample period (R102). -/
def Sound.clips (x : Sound) : Nat := ((List.range 16).filter (fun o => (x.mixed o).2)).length

/-- A fault handed over a number of times. -/
def Card.faults (c : Card) (sc : Idx4) (f : FaultReport) : Nat → Card
  | 0 => c
  | n + 1 => Card.faults (c.fault sc f) sc f n

/-- The MIX_CLIP fault of a saturated sample (R102, R111). -/
def Sequencer.mixClip (q : Sequencer) : FaultReport :=
  { kind := .mixClip, cause := none, entry := q.current, reel := q.position.map (·.reel)
    frame := q.position.map (·.frame) }

/-- One link sample period of a screen with the ends of a dip (R105, R109), and the MIX_CLIP faults (R102). -/
def Card.samplePeriod (c : Card) (sc : Idx4) : Card :=
  let clips := (c.scr sc).sound.clips
  let t := c.targetAfterDown sc
  let sending := c.active
  let c := c.modSound sc (fun x => (x.period1 sending).endUp.endDown t)
  c.faults sc (c.scr sc).seq.mixClip clips

/-! ## Loads, stops and resets (R92) -/

/-- What a successful LOAD does to the renderer (R92). -/
def Sound.onLoad (x : Sound) (s : Settings) : Sound :=
  { x with newRoutes := some s.routes, level := s.level, delay := s.lipsync, pendingDelay := none
           line := [], write := 0, dip := .none }

/-- The renderer when the engine enters OFF (R92). DESIGN CHOICE (log 51): what is left of the frame period in progress
is fed silence. -/
def Sound.enterOff (x : Sound) : Sound :=
  { x with delay := x.pendingDelay.getD x.delay, pendingDelay := none, master := 0, target := 0, step := 1, dip := .none
           staged := none, feed := none }

/-- The renderer after an engine reset (R92, R110): the link's rate and the frame period in progress are not disturbed
(R23), but what is left of it is fed silence (DESIGN CHOICE, log 51). -/
def Sound.engineReset (x : Sound) : Sound := { linkRate := x.linkRate, count := x.count, period := x.period }

end Sys2Proof.Machine
end

