-- ==== Sys2Proof/Machine/Text.lean ====
section
/-! DEFINITION. The text engine and the caption port (chapter 6): the cue pool, cue intake, the sets at each frame
boundary, opacity, releases and caption state frames. -/
namespace Sys2Proof.Machine

/-! ## The pool (R113, R114) -/

/-- A screen's held count h (R113). -/
def CuePool.heldBy (p : CuePool) (sc : Idx4) : Nat := (p.held.filter (fun x => x.2.owner == sc)).length

/-- The free records that the other three screens' reserves need (R114). -/
def CuePool.reserved (p : CuePool) (sc : Idx4) : Nat :=
  ((Idx4.all.filter (· != sc)).map (fun s => Config.reserve - p.heldBy s)).sum

/-- Whether a screen may take a record (R114). -/
def CuePool.mayTake (p : CuePool) (sc : Idx4) : Bool :=
  decide (p.heldBy sc < Config.reserve) || decide (p.reserved sc < p.free.length)

/-- A record taken from the head of the free list and filled (R113). -/
def CuePool.take (p : CuePool) (r : CueRecord) : Option (Nat × CuePool) :=
  match p.free with
  | [] => none
  | n :: t => some (n, { free := t, held := FMap.put p.held n r })

/-- A record returned to the head of the free list (R113). -/
def CuePool.giveBack (p : CuePool) (n : Nat) : CuePool := { free := n :: p.free, held := FMap.erase p.held n }

/-- Whether a record is on a screen's queue or in one of its sets (R112). -/
def TextState.uses (t : TextState) (n : Nat) : Bool :=
  t.queue.contains n || t.overlay.contains n || t.captions.toList.any (·.contains n)

/-- The records of a screen that are in neither its queue nor its sets return to the free list (R112). DESIGN CHOICE
(log 53): of records that one action lets go together, the one with the lowest number returns first. -/
def Card.sweep (c : Card) (sc : Idx4) : Card :=
  let t := (c.scr sc).text
  let loose := (c.pool.held.filter (fun x => x.2.owner == sc && !t.uses x.1)).map (·.1)
  { c with pool := loose.foldl CuePool.giveBack c.pool }

/-- A held record. -/
def Card.cue (c : Card) (n : Nat) : Option CueRecord := FMap.find c.pool.held n

/-- The TEXT part of a held record. -/
def Card.textCue (c : Card) (n : Nat) : Option TextCue :=
  match c.cue n with
  | some ⟨_, _, _, _, .text t⟩ => some t
  | _ => none

/-! ## The queue and the targets (R118, R119) -/

/-- A record's time (R119). -/
def CueRecord.time (r : CueRecord) : Nat :=
  match r.body with
  | .text t => t.inFrame
  | .automation a => a.frame

/-- Whether a record stands before a place of given reel and time, or at it having come before (R119). -/
def CueRecord.notAfter (r : CueRecord) (reel time : Nat) : Bool :=
  decide (r.reel < reel) || (r.reel == reel && decide (r.time ≤ time))

/-- A record number put into the queue in the order of R119: after every record not after it. -/
def Card.enqueue (c : Card) (queue : List Nat) (n reel time : Nat) : List Nat :=
  let before := queue.takeWhile (fun k => match c.cue k with | some r => r.notAfter reel time | none => true)
  before ++ n :: queue.drop before.length

/-- Whether the overlay set is a target of a cue, and whether its caption set is (R118). -/
def Selection.overlays (s : Selection) (slot : Idx4) : Bool := s.overlay == some slot
def Selection.captionsSlot (s : Selection) (slot : Idx4) : Bool := maskHas s.captions slot

/-- Whether every target of a queued TEXT record has placed it (R118). -/
def TextState.placedAll (t : TextState) (n : Nat) (cue : TextCue) : Bool :=
  (!t.selection.overlays cue.slot || t.overlay.contains n) &&
    (!t.selection.captionsSlot cue.slot || (t.captions.get cue.slot).contains n)

/-! ## Cue intake (R115 to R117) -/

/-- The intake frame g (R117). -/
def Sequencer.intakeFrame (q : Sequencer) : Nat :=
  match q.position with
  | none => 0
  | some p => if q.inProgress then p.frame + 1 else p.frame

/-- A CUE_DROP handed to fault handling. -/
def Card.cueDrop (c : Card) (sc : Idx4) (cause : FaultCause) (entry reel frame : Nat) (cue : Option U32 := none) :
    Card :=
  c.fault sc { kind := .cueDrop, cause := some cause, entry := some entry, reel := some reel, frame := some frame
               cue := cue }

/-- A TEXT_UNIT fault (R64, R115, R116). -/
def Card.textFault (c : Card) (sc : Idx4) (cause : FaultCause) (entry reel frame : Nat) (cue : Option U32 := none) :
    Card :=
  c.fault sc { kind := .textUnit, cause := some cause, entry := some entry, reel := some reel, frame := some frame
               cue := cue }

/-- The pool step of R117: a record is taken, filled and queued, or the item is dropped with cause POOL. -/
def Card.takeCue (c : Card) (sc : Idx4) (entry reel : Nat) (body : CueBody) : Card :=
  let t := (c.scr sc).text
  let r : CueRecord := { owner := sc, entry := entry, reel := reel, arrival := t.nextArrival, body := body }
  if !c.pool.mayTake sc then c.cueDrop sc .pool entry reel r.time
  else
    match c.pool.take r with
    | none => c.cueDrop sc .pool entry reel r.time
    | some (n, pool) =>
      let c := { c with pool := pool }
      c.modText sc (fun t =>
        { t with queue := c.enqueue t.queue n reel r.time, nextArrival := t.nextArrival + 1 })

/-- The fades of step 3 of R117. -/
def adjustFades (inFrame outFrame fadeIn fadeOut : Nat) : Nat × Nat :=
  let span := outFrame - inFrame
  if span < fadeIn + fadeOut then
    let a := min fadeIn span
    (a, span - a)
  else (fadeIn, fadeOut)

/-- One TEXT item judged (R115's timing, then R117). DESIGN CHOICE (log 56): a TEXT_UNIT fault with cause TIMING names
the item's own in frame. -/
def Card.textItem (c : Card) (sc : Idx4) (entry reel duration : Nat) (slot : Idx4) (i : TextItem) : Card :=
  let sel := (c.scr sc).text.selection
  if i.outFrame ≤ i.inFrame ∨ duration ≤ i.inFrame then c.textFault sc .timing entry reel i.inFrame (some i.id)
  else if !(sel.overlays slot || sel.captionsSlot slot) then c
  else
    let q := (c.scr sc).seq
    let g := q.intakeFrame
    let here := q.position.map (·.reel) == some reel
    if here ∧ i.outFrame ≤ g then c.cueDrop sc .late entry reel i.inFrame (some i.id)
    else
      let late := here && decide (i.inFrame < g)
      let c := if late then c.cueDrop sc .late entry reel i.inFrame (some i.id) else c
      let fades := adjustFades i.inFrame i.outFrame (if late then 0 else i.fadeIn) i.fadeOut
      c.takeCue sc entry reel (.text
        { id := i.id, inFrame := i.inFrame, outFrame := i.outFrame, fadeIn := fades.1, fadeOut := fades.2
          region := i.region, slot := slot, style := i.style, text := i.text })

/-- One AUTOMATION item judged (R116's timing, then R117). DESIGN CHOICE (log 56): a TEXT_UNIT fault with cause TIMING
names the item's own frame. -/
def Card.automationItem (c : Card) (sc : Idx4) (entry reel duration : Nat) (i : AutoCue) : Card :=
  if duration ≤ i.frame then c.textFault sc .timing entry reel i.frame
  else
    let q := (c.scr sc).seq
    if q.position.map (·.reel) == some reel ∧ i.frame < q.intakeFrame then c.cueDrop sc .late entry reel i.frame
    else c.takeCue sc entry reel (.automation i)

/-- A plain TEXT or AUTOMATION unit handed over (R115, R116): rejected whole, or judged item by item in unit order. -/
def Card.textUnitTaken (c : Card) (sc : Idx4) (entry reel duration frame : Nat) (kind : TrackKind) (plain : List Byte) :
    Card :=
  match kind with
  | .text slot _ =>
    match textUnit plain with
    | none => c.textFault sc .decode entry reel frame
    | some items => items.foldl (fun c i => c.textItem sc entry reel duration slot i) c
  | _ =>
    match automationUnit plain with
    | none => c.textFault sc .decode entry reel frame
    | some items => items.foldl (fun c i => c.automationItem sc entry reel duration i) c

/-! ## At each frame boundary (R120 to R123, R126) -/

/-- A record leaves the sets (R120 step 2) when its out frame is at or below f. -/
def CueRecord.overAt (r : CueRecord) (f : Nat) : Bool :=
  match r.body with
  | .text t => decide (t.outFrame ≤ f)
  | .automation _ => false

/-- Records of the sets filtered. -/
def TextState.filterSets (t : TextState) (keepOverlay : Nat → Bool) (keepCaption : Idx4 → Nat → Bool) : TextState :=
  { t with
    overlay := t.overlay.filter keepOverlay
    captions := ⟨t.captions.q0.filter (keepCaption .i0), t.captions.q1.filter (keepCaption .i1),
                 t.captions.q2.filter (keepCaption .i2), t.captions.q3.filter (keepCaption .i3)⟩ }

/-- Hiding (R120 step 2). -/
def Card.hideCues (c : Card) (sc : Idx4) (f : Nat) : Card :=
  let stays := fun n => match c.cue n with | some r => !r.overAt f | none => false
  c.modText sc (fun t => t.filterSets stays (fun _ => stays))

/-- A set takes a record if it holds fewer than 4 (R120 step 3). -/
def offerSet (set : List Nat) (wanted : Bool) (n : Nat) : List Nat :=
  if wanted && !set.contains n && decide (set.length < 4) then set ++ [n] else set

/-- One record of the showing walk (R120 step 3). -/
def TextState.showOne (t : TextState) (n : Nat) (cue : TextCue) : TextState :=
  { t with
    overlay := offerSet t.overlay (t.selection.overlays cue.slot) n
    captions := t.captions.modify cue.slot (fun s => offerSet s (t.selection.captionsSlot cue.slot) n) }

/-- Whether a queued record is a TEXT record of the reel that is due and not over at f. -/
def CueRecord.showable (r : CueRecord) (reel f : Nat) : Option TextCue :=
  match r.body with
  | .text t => if r.reel = reel ∧ t.inFrame ≤ f ∧ f < t.outFrame then some t else none
  | .automation _ => none

/-- Showing (R120 step 3): the walk from the head, after which a record placed in all its targets leaves the queue. -/
def Card.showCues (c : Card) (sc : Idx4) (reel f : Nat) : Card :=
  c.modText sc (fun t =>
    let t := t.queue.foldl (fun t n =>
      match (c.cue n).bind (fun r => r.showable reel f) with
      | some cue => t.showOne n cue
      | none => t) t
    { t with queue := t.queue.filter (fun n =>
        match (c.cue n).bind (fun r => r.showable reel f) with
        | some cue => !t.placedAll n cue
        | none => true) })

/-- Whether a queued record is overrun at f: a TEXT record of the reel whose out frame is at or below f (R120 step
4). -/
def CueRecord.overrun (r : CueRecord) (reel f : Nat) : Bool := r.reel == reel && r.overAt f

/-- A record taken off the queue; if it stands in no set, it returns to the free list at once (R112, R121, R122). -/
def Card.unqueue (c : Card) (sc : Idx4) (n : Nat) : Card :=
  let c := c.modText sc (fun t => { t with queue := t.queue.filter (· != n) })
  if (c.scr sc).text.uses n then c else { c with pool := c.pool.giveBack n }

/-- Overrun (R120 step 4, R121): the record is taken off the queue and a CUE_DROP handed over. DESIGN CHOICE (log 79):
records overrun at one boundary leave, and return to the free list, in queue order. -/
def Card.overrunCues (c : Card) (sc : Idx4) (reel f : Nat) : Card :=
  let t := (c.scr sc).text
  let out := t.queue.filterMap (fun n => (c.cue n).bind (fun r => if r.overrun reel f then some (n, r) else none))
  out.foldl (fun c x =>
    let id := match x.2.body with | .text k => some k.id | .automation _ => none
    (c.unqueue sc x.1).cueDrop sc .overrun x.2.entry x.2.reel x.2.time id) c

/-- The AUTOMATION records handed over for the presented frame, in queue order (R120 step 5, R122). -/
def Card.dueAutomation (c : Card) (sc : Idx4) (reel f : Nat) : List (Nat × AutoCue) :=
  (c.scr sc).text.queue.filterMap (fun n => (c.cue n).bind (fun r =>
    match r.body with
    | .automation a => if r.reel = reel ∧ a.frame ≤ f then some (n, a) else none
    | .text _ => none))

/-- The sets and queue for a presented TITLE frame (R120 steps 2 to 5); the second part is what the automation unit is
handed. What step 2 lets go returns to the free list before what steps 4 and 5 take off the queue, and of step 5 each
record returns as it is handed over (R121, R122). -/
def Card.presentCues (c : Card) (sc : Idx4) (reel f : Nat) : Card × List AutoCue :=
  let c := (((c.hideCues sc f).sweep sc).showCues sc reel f).overrunCues sc reel f
  let due := c.dueAutomation sc reel f
  (due.foldl (fun c x => c.unqueue sc x.1) c, due.map (·.2))

/-- The opacity of a record shown at frame f (R123). -/
def TextCue.opacity (t : TextCue) (f : Nat) : Nat :=
  let k := f - t.inFrame
  let j := t.outFrame - f
  if k < t.fadeIn then 255 * (k + 1) / (t.fadeIn + 1)
  else if j ≤ t.fadeOut then 255 * j / (t.fadeOut + 1)
  else 255

/-- The overlay set handed to the picture port for a frame (R120 step 6, R123). -/
def Card.overlayCues (c : Card) (sc : Idx4) (f : Nat) : List OverlayCue :=
  (c.scr sc).text.overlay.filterMap (fun n =>
    (c.textCue n).map (fun t => ⟨t.region, t.style, t.opacity f, t.text⟩))

/-- The pending selection applied (R126). -/
def Card.applySelection (c : Card) (sc : Idx4) : Card :=
  match (c.scr sc).text.pendingSelection with
  | none => c
  | some sel =>
    let c := c.modText sc (fun t =>
      let t := { t with selection := sel, pendingSelection := none }
      let t := t.filterSets (fun n => (c.textCue n).any (fun k => sel.overlays k.slot)) (fun i _ => sel.captionsSlot i)
      { t with queue := t.queue.filter (fun n =>
          match c.textCue n with
          | some k => !t.placedAll n k
          | none => true) })
    c.sweep sc

/-! ## Releases (R124, R125) -/

/-- A reel of the current entry ends (R124): the sets and the queued records of that reel are released. -/
def Card.releaseReelCues (c : Card) (sc : Idx4) (reel : Nat) : Card :=
  (c.modText sc (fun t =>
    { t with
      overlay := []
      captions := Quad.const []
      queue := t.queue.filter (fun n => match c.cue n with | some r => r.reel != reel | none => false) })).sweep sc

/-- The current entry ends, is dropped or jumps (R125): every record is released. -/
def Card.releaseCues (c : Card) (sc : Idx4) : Card :=
  (c.modText sc (fun t => { t with queue := [], overlay := [], captions := Quad.const [] })).sweep sc

/-- What a successful LOAD does to the text engine (R118). -/
def TextState.onLoad (t : TextState) (s : Settings) : TextState :=
  { t with queue := [], overlay := [], captions := Quad.const [], selection := ⟨s.overlay, s.captions⟩
           pendingSelection := none, nextArrival := 0 }

/-! ## The caption port (R127, R128) -/

/-- The language code of a slot: that of the current reel's TEXT track on it, or three spaces (R127). -/
def Sequencer.captionLanguage (q : Sequencer) (slot : Idx4) : List Byte :=
  let tracks := match q.title, q.position with
    | some t, some p => match t.reels[p.reel]? with | some r => r.tracks | none => []
    | _, _ => []
  match tracks.findSome? (fun k =>
      match k.kind with | .text s lang => if s = slot then some lang else none | _ => none) with
  | some lang => lang
  | none => [0x20, 0x20, 0x20]

/-- The cues of a caption set, in order of entry (R127). -/
def Card.captionCues (c : Card) (sc slot : Idx4) : List CaptionCue :=
  ((c.scr sc).text.captions.get slot).filterMap (fun n =>
    (c.textCue n).map (fun t => ⟨t.id, t.region, t.style, t.text⟩))

/-- The slot blocks of a caption state frame (R127). -/
def Card.slotBlocks (c : Card) (sc : Idx4) (showing : Bool) : List SlotBlock :=
  (Idx4.all.filter (fun i => (c.scr sc).text.selection.captionsSlot i)).map (fun i =>
    { slot := i, lang := (c.scr sc).seq.captionLanguage i, cues := if showing then c.captionCues sc i else [] })

/-- A frame built (R128): sent at once on an IDLE link, else it becomes the pending frame. -/
def CaptionPort.offer (p : CaptionPort) (f : CaptionFrame) : CaptionPort :=
  match p.sending with
  | none => { p with sending := some f }
  | some _ => { p with pending := some f }

/-- A caption state frame is built at a boundary (R127). DESIGN CHOICE (log 57): the frame carries the count as its own
building leaves it, so that the first after a reset carries 1. -/
def Card.buildCaptions (c : Card) (sc : Idx4) (showing : Bool) : Card :=
  let blocks := c.slotBlocks sc showing
  c.modScr sc (fun x =>
    let n := x.captions.count + 1
    { x with captions :=
        { x.captions with count := n }.offer { screen := sc, count := n, showing := showing, blocks := blocks } })

/-- A caption frame send completes (R128). -/
def CaptionPort.sendDone (p : CaptionPort) : CaptionPort :=
  match p.sending with
  | none => p
  | some _ => { p with sending := p.pending, pending := none }

end Sys2Proof.Machine
end

