-- ==== Sys2Proof/Machine/Intake.lean ====
section
/-! DEFINITION. Chunk intake (chapter 3): queues, feeds, slot answers, the chunk directory, judging, fetching and the
taking of units. -/
namespace Sys2Proof.Machine

/-! ## The picture and sound queues (R65) -/

/-- The entry an item belongs to. -/
def QueueItem.entry : QueueItem → Nat
  | .ref r => r.entry
  | .missing e _ _ _ => e

/-- The frames an item stands for. -/
def QueueItem.frames : QueueItem → Nat
  | .ref _ => 1
  | .missing _ _ _ n => n

/-- Whether an item begins at a frame of an entry. -/
def QueueItem.isAt (entry reel frame : Nat) : QueueItem → Bool
  | .ref r => r.entry == entry && r.reel == reel && r.frame == frame
  | .missing e r f n => e == entry && r == reel && f == frame && decide (0 < n)

/-- The frames a queue holds (R58, R65). -/
def queueDepth (q : List QueueItem) : Nat := (q.map QueueItem.frames).sum

/-- The frames of one entry that a queue holds. -/
def queueFrames (q : List QueueItem) (entry : Nat) : Nat := queueDepth (q.filter (fun i => i.entry == entry))

/-- The references of a queue. -/
def queueRefs (q : List QueueItem) : List Ref :=
  q.filterMap (fun i => match i with | .ref r => some r | .missing .. => none)

/-- An item put before a queue; a placeholder joins a following one of its entry and reel with no gap (R65). -/
def joinItem (i : QueueItem) (q : List QueueItem) : List QueueItem :=
  match i, q with
  | .missing e r f n, .missing e' r' f' n' :: t =>
    if e = e' ∧ r = r' ∧ f' = f + n then .missing e r f (n + n') :: t else i :: q
  | _, _ => i :: q

/-- A queue with its adjoining placeholders joined. -/
def joinRuns (q : List QueueItem) : List QueueItem := q.foldr joinItem []

/-- Items appended at the end of the part of a queue that belongs to an entry; the current entry's part stands first
(R65). -/
def appendItems (q : List QueueItem) (entry : Nat) (isCurrent : Bool) (items : List QueueItem) : List QueueItem :=
  let mine := joinRuns (q.filter (fun i => i.entry == entry) ++ items)
  let others := q.filter (fun i => i.entry != entry)
  if isCurrent then mine ++ others else others ++ mine

/-- The head item's frame taken: a reference leaves the queue, a placeholder gives up one frame (R65). -/
def popFrame : List QueueItem → List QueueItem
  | [] => []
  | .ref _ :: t => t
  | .missing e r f n :: t => if n ≤ 1 then t else .missing e r (f + 1) (n - 1) :: t

/-- Whether the head of a queue holds a frame (R31). -/
def headHolds (q : List QueueItem) (entry reel frame : Nat) : Bool :=
  match q with
  | [] => false
  | i :: _ => i.isAt entry reel frame

/-- The consecutive frames of an entry that a queue holds from a reel and frame on, over the reel durations (R29,
R37). -/
def runLength (durations : List Nat) (entry : Nat) : List QueueItem → Nat → Nat → Nat
  | [], _, _ => 0
  | i :: t, reel, frame =>
    if i.isAt entry reel frame then
      let next := frame + i.frames
      i.frames +
        (if durations.getD reel 0 ≤ next then runLength durations entry t (reel + 1) 0
         else runLength durations entry t reel next)
    else 0

/-! ## Feeds (R52) -/

/-- The feed kind of a track. -/
def FeedKind.ofTrack : TrackKind → FeedKind
  | .picture => .picture
  | .sound _ _ => .sound
  | .text s _ => .text s
  | .automation => .automation

/-- A reel's track of a feed kind. -/
def Reel.trackOf (r : Reel) (k : FeedKind) : Option Track := r.tracks.find? (fun t => FeedKind.ofTrack t.kind == k)

def Feeds.get (f : Feeds) : FeedKind → Feed
  | .picture => f.picture
  | .sound => f.sound
  | .automation => f.automation
  | .text s => f.text.get s

def Feeds.set (f : Feeds) (k : FeedKind) (v : Feed) : Feeds :=
  match k with
  | .picture => { f with picture := v }
  | .sound => { f with sound := v }
  | .automation => { f with automation := v }
  | .text s => { f with text := f.text.set s v }

/-- The seven feed kinds in the order of R58's ties. -/
def FeedKind.all : List FeedKind := [.picture, .sound, .automation, .text .i0, .text .i1, .text .i2, .text .i3]

/-- The rank of a feed kind in R58's ties. -/
def FeedKind.rank : FeedKind → Nat
  | .picture => 0
  | .sound => 1
  | .automation => 2
  | .text s => 3 + s.toNat

/-- Whether a feed is a text or automation feed. -/
def FeedKind.isText : FeedKind → Bool
  | .text _ | .automation => true
  | _ => false

/-- A feed at the first reel from `start` on that has a track of its kind, at frame 0 and sequence 0; complete if there
is none (R52). A declined track counts as absent (R57). -/
def feedFrom (reels : List Reel) (k : FeedKind) (declined : List U32) (start : Nat) : Feed :=
  let has := fun (r : Reel) => match r.trackOf k with | some t => !declined.contains t.id | none => false
  match (reels.drop start).findIdx? has with
  | some i => { reel := start + i }
  | none => { reel := reels.length, complete := true }

/-- The seven feeds of an entry set to a reel (R52). -/
def feedsFrom (t : Title) (declined : List U32) (start : Nat) : Feeds :=
  FeedKind.all.foldl (fun f k => f.set k (feedFrom t.reels k declined start)) {}

/-- The declined tracks of a screen (R57, R86). -/
def declinedTracks (keys : List TextKey) : List U32 :=
  (keys.filter (fun k => k.state == .declined)).map (·.track)

/-- The current entry's feeds changed with its title at hand. -/
def Card.modFeeds (c : Card) (sc : Idx4) (f : Title → List U32 → Feeds → Feeds) : Card :=
  c.modScr sc (fun x =>
    match x.seq.title with
    | none => x
    | some t => { x with currentFeeds := x.currentFeeds.map (f t (declinedTracks x.textKeys)) })

/-- REEL_JUMP's change of the feeds (R52). -/
def Card.jumpFeeds (c : Card) (sc : Idx4) (reel : Nat) : Card :=
  c.modFeeds sc (fun t declined _ => feedsFrom t declined reel)

/-- A reel end's change of the feeds: a text or automation feed below the new reel is moved there (R52). -/
def Card.reelEndFeeds (c : Card) (sc : Idx4) (reel : Nat) : Card :=
  c.modFeeds sc (fun t declined fs =>
    (FeedKind.all.filter FeedKind.isText).foldl (fun f k =>
      if !(f.get k).complete && decide ((f.get k).reel < reel) then f.set k (feedFrom t.reels k declined reel) else f)
      fs)

/-- A track declined: the text feed that stands at it moves on (R57). -/
def Card.skipDeclined (c : Card) (sc : Idx4) (track : U32) : Card :=
  c.modFeeds sc (fun t declined fs =>
    FeedKind.all.foldl (fun f k =>
      let feed := f.get k
      match t.reels[feed.reel]? with
      | none => f
      | some r =>
        if !feed.complete && (r.trackOf k).map (·.id) == some track then
          f.set k (feedFrom t.reels k declined (feed.reel + 1))
        else f) fs)

/-- The feeds of an entry of a screen: the current entry's or the armed entry's. -/
def Card.feedsOf (c : Card) (sc : Idx4) (entry : Nat) : Option Feeds :=
  let x := c.scr sc
  if x.seq.current = some entry then x.currentFeeds
  else if x.seq.armed = some entry then x.armedFeeds
  else none

/-- A feed of the current or armed entry written. -/
def Card.setFeed (c : Card) (sc : Idx4) (entry : Nat) (k : FeedKind) (v : Feed) : Card :=
  c.modScr sc (fun x =>
    if x.seq.current = some entry then { x with currentFeeds := x.currentFeeds.map (fun f => f.set k v) }
    else { x with armedFeeds := x.armedFeeds.map (fun f => f.set k v) })

/-! ## Slots and answers (R66 to R69) -/

/-- A slot record changed. -/
def Card.modSlot (c : Card) (slot : Nat) (f : SlotRecord → SlotRecord) : Card :=
  { c with slots := c.slots.modify slot f }

/-- The directory entry of a slot. -/
def Card.dirEntry (c : Card) (slot : Nat) : Option DirEntry := c.directory.find? (fun e => e.slot == slot)

/-- A slot's directory entry changed. -/
def Card.modEntryOf (c : Card) (slot : Nat) (f : DirEntry → DirEntry) : Card :=
  { c with directory := c.directory.map (fun e => if e.slot == slot then f e else e) }

/-- A slot's directory entry removed. -/
def Card.dropEntryOf (c : Card) (slot : Nat) : Card :=
  { c with directory := c.directory.filter (fun e => e.slot != slot) }

/-- An entry put into the directory, which is kept in slot order (R51). -/
def insertEntry (e : DirEntry) : List DirEntry → List DirEntry
  | [] => [e]
  | d :: t => if e.slot ≤ d.slot then e :: d :: t else d :: insertEntry e t

/-- A slot answered (R69): the slot record, the directory, the answer word and SLOT_ANSWERED. -/
def Card.answerSlot (c : Card) (slot : Nat) (gen : U32) (r : SlotResult) (screen : Nat) : Card :=
  let c := c.modSlot slot (fun x => { x with answered := some gen })
  let c := (c.dropEntryOf slot).publish (.slotAnswer slot gen r.code)
  c.raise .booth .slotAnswered [(1, slot), (4, gen.toNat), (1, r.code), (1, screen)]

/-- One reference of a slot consumed (R66, R67, R68): at 0 outstanding the tally is cleared, and the slot is answered
unless it is withdrawn. -/
def Card.consume (c : Card) (sc : Idx4) (slot : Nat) (gen : U32) : Card :=
  match (c.slots[slot]?).bind (·.tally) with
  | none => c
  | some t =>
    if t.gen ≠ gen then c
    else if 1 < t.outstanding then
      c.modSlot slot (fun x => { x with tally := some { t with outstanding := t.outstanding - 1 } })
    else
      let c := c.modSlot slot (fun x => { x with tally := none })
      if t.withdrawn then c
      else c.answerSlot slot gen (if t.released then .released else .spent) sc.toNat

/-- The released flag of a reference's tally set (R67). -/
def Card.markReleased (c : Card) (r : Ref) : Card :=
  c.modSlot r.slot (fun x =>
    { x with tally := x.tally.map (fun t => if t.gen = r.gen then { t with released := true } else t) })

/-- A staged unit of an entry abandoned (R99). -/
def unstage (entry : Nat) (s : Option Staged) : Option Staged :=
  match s with
  | some g => if g.ref.entry = entry then none else some g
  | none => none

/-- The references and placeholders of an entry released from both queues (R67); a read in progress is abandoned and
counts as ended at once (R99), so every reference is consumed. DESIGN CHOICE (log 65): the picture queue's references
are consumed first, then the sound queue's, each in queue order, and the slots that this brings to 0 are answered in
that order. -/
def Card.releaseRefs (c : Card) (sc : Idx4) (entry : Nat) : Card :=
  let x := c.scr sc
  let refs := (queueRefs x.pictureQueue ++ queueRefs x.soundQueue).filter (fun r => r.entry == entry)
  let c := c.modScr sc (fun x =>
    { x with
      pictureQueue := x.pictureQueue.filter (fun i => i.entry != entry)
      soundQueue := x.soundQueue.filter (fun i => i.entry != entry)
      port := { x.port with staged := unstage entry x.port.staged }
      sound := { x.sound with staged := unstage entry x.sound.staged } })
  let c := refs.foldl Card.markReleased c
  refs.foldl (fun c r => c.consume sc r.slot r.gen) c

/-- A queue with the references of a slot's generation replaced by placeholders, but for a staged one (R68). -/
def withdrawFrom (slot : Nat) (gen : U32) (staged : Option Ref) (q : List QueueItem) : List QueueItem :=
  joinRuns (q.map (fun i =>
    match i with
    | .ref r =>
      if r.slot = slot ∧ r.gen = gen ∧ staged ≠ some r then .missing r.entry r.reel r.frame 1 else .ref r
    | i => i))

/-- The number of references of a slot's generation in the queues of the four screens. -/
def Card.refCount (c : Card) (slot : Nat) (gen : U32) : Nat :=
  (Idx4.all.map (fun sc =>
    ((queueRefs (c.scr sc).pictureQueue ++ queueRefs (c.scr sc).soundQueue).filter
      (fun r => r.slot == slot && r.gen == gen)).length)).sum

/-- A slot withdrawn while IN_USE (R68). -/
def Card.withdraw (c : Card) (slot : Nat) (gen : U32) : Card :=
  let before := c.refCount slot gen
  let c := Idx4.all.foldl (fun c sc => c.modScr sc (fun x =>
    { x with
      pictureQueue := withdrawFrom slot gen (x.port.staged.map (·.ref)) x.pictureQueue
      soundQueue := withdrawFrom slot gen (x.sound.staged.map (·.ref)) x.soundQueue })) c
  let replaced := before - c.refCount slot gen
  let c := c.dropEntryOf slot
  c.modSlot slot (fun x =>
    { x with tally := x.tally.bind (fun t =>
        if t.gen ≠ gen then some t
        else if t.outstanding ≤ replaced then none
        else some { t with outstanding := t.outstanding - replaced, withdrawn := true }) })

/-! ## The directory at a booth tick (R50) -/

/-- A slot's header read at its first meeting with an offer: the entry is made, or MEMORY_FAULT raised. -/
def Card.meetOffer (c : Card) (m : Mem) (h : Header) (slot : Nat) (gen : U32) : Card :=
  let access := BusAccess.headerRead (Fin.ofNat 256 slot)
  if c.busFailed access then (c.busDone access).memoryFault false poolPlace .slotHeader (h.slotAddr slot + 16)
  else
    let header := chunkHeaderOf (m.readBytes (h.slotAddr slot) 64)
    let c := c.busDone access
    { c with directory := insertEntry { slot := slot, gen := gen, header := header } c.directory }

/-- One slot's offer word compared with its directory entry (R50). -/
def Card.compareOffer (c : Card) (m : Mem) (h : Header) (slot : Nat) : Card :=
  let gen := BitVec.ofNat 32 (m.field (h.slotAddr slot) 4)
  let answered := (c.slots[slot]?).bind (·.answered)
  let offered := decide (gen ≠ 0) && decide (answered ≠ some gen)
  match c.dirEntry slot with
  | none => if offered then c.meetOffer m h slot gen else c
  | some e =>
    if offered && decide (e.gen = gen) then c
    else
      match e.standing with
      | .offered =>
        let c := c.dropEntryOf slot
        if offered then c.meetOffer m h slot gen else c
      | .inFetch => c.modEntryOf slot (fun e => { e with changed := true })
      | .inUse => c.withdraw slot e.gen

/-- One slot's offer word read (R50). A slot whose seeding is pending is not examined (R49). -/
def Card.refreshSlot (c : Card) (m : Mem) (h : Header) (slot : Nat) : Card :=
  let access := BusAccess.offerRead (Fin.ofNat 256 slot)
  match c.slots[slot]? with
  | none => c
  | some x =>
    if x.seedPending then c
    else if c.busFailed access then (c.busDone access).memoryFault false poolPlace .offerWord (h.slotAddr slot)
    else (c.busDone access).compareOffer m h slot

/-- The directory refreshed (R50). -/
def Card.refreshDirectory (c : Card) (m : Mem) (h : Header) : Card :=
  (List.range c.slots.length).foldl (fun c i => c.refreshSlot m h i) c

/-! ## Judging (R53 to R57) -/

/-- Where a chunk stands to its feed (R53 step 9). -/
inductive Placing where
  | behind | here | beyond
  deriving DecidableEq, Repr

def Feed.placing (f : Feed) (reel sequence : Nat) : Placing :=
  if f.complete || decide (reel < f.reel) then .behind
  else if f.reel < reel then .beyond
  else if sequence < f.sequence then .behind
  else if f.sequence < sequence then .beyond
  else .here

/-- The reel and track of a track id in a title (R6). -/
def Title.findTrack (t : Title) (id : U32) : Option (Nat × Track) :=
  (List.range t.reels.length).findSome? (fun i =>
    match t.reels[i]? with
    | none => none
    | some r => (r.tracks.find? (fun k => k.id == id)).map (fun k => (i, k)))

/-- Whether the current entry leaves room for the armed entry's picture and sound (R55, R95): its feed of the kind is
complete, or it is an INTERVAL or MARK. -/
def Card.armedMayTake (c : Card) (sc : Idx4) (k : FeedKind) : Bool :=
  let x := c.scr sc
  x.seq.atMark || x.seq.atInterval ||
    (match x.currentFeeds with | some f => (f.get k).complete | none => false)

/-- Whether a feed wants data for a chunk of some units (R55). -/
def Card.wantsData (c : Card) (sc : Idx4) (isCurrent : Bool) (k : FeedKind) (feed : Feed) (units : Nat) : Bool :=
  let x := c.scr sc
  match k with
  | .picture =>
    !feed.complete && decide (units + (queueRefs x.pictureQueue).length ≤ Config.queueRefs) &&
      (isCurrent || c.armedMayTake sc k)
  | .sound =>
    !feed.complete && decide (units + (queueRefs x.soundQueue).length ≤ Config.queueRefs) &&
      (isCurrent || c.armedMayTake sc k)
  | _ =>
    isCurrent && !feed.complete &&
      (match x.seq.position with
        | some p => feed.reel == p.reel || feed.reel == p.reel + 1
        | none => false)

/-- A candidate for the fetch engine: its screen and feed, whether its entry is the current one, and its track with the
track's reel (R53 step 9). -/
structure Candidate where
  sc : Idx4
  kind : FeedKind
  isCurrent : Bool
  reel : Nat
  track : Track
  deriving DecidableEq, Repr

/-- The outcome of a judgement (R53). -/
inductive Verdict where
  | answer (r : SlotResult)
  | leave
  | candidate (k : Candidate)
  deriving DecidableEq, Repr

/-- Steps 7 to 9 of R53, for a chunk of a known track of a current or armed entry. A HELD track's feed does not want
data (R57). -/
def Card.judgeTrack (c : Card) (h : ChunkHeader) (k : Candidate) : Verdict :=
  let keys := (c.scr k.sc).textKeys
  if k.kind.isText && !k.isCurrent then .leave
  else if k.kind.isText && (declinedTracks keys).contains k.track.id then .answer .released
  else
    match c.feedsOf k.sc h.entry with
    | none => .leave
    | some fs =>
      let feed := fs.get k.kind
      match feed.placing k.reel h.sequence with
      | .behind => .answer .stale
      | .beyond => .leave
      | .here =>
        let held := keys.any (fun t => t.track == k.track.id && t.state == .held)
        if c.wantsData k.sc k.isCurrent k.kind feed h.units && !held then .candidate k else .leave

/-- Steps 3 to 6 of R53, for a screen that is enabled and not DARK. -/
def Card.judgeEntry (c : Card) (h : ChunkHeader) (sc : Idx4) : Verdict :=
  let q := (c.scr sc).seq
  if q.loadNumber ≠ some h.load then .answer .stale
  else
    match q.titleOf h.entry with
    | none => .answer .badHeader
    | some t =>
      let finished := match q.state with | .finished _ => true | _ => false
      let isCurrent := q.current == some h.entry
      if finished then .answer .stale
      else if !isCurrent && q.armed != some h.entry then
        if (q.list[h.entry]?).map (·.status) = some .notArmed then .leave else .answer .stale
      else
        match t.findTrack h.track with
        | none => .answer .badHeader
        | some (reel, track) =>
          if h.isSealed ≠ track.isSealed then .answer .badHeader
          else c.judgeTrack h ⟨sc, FeedKind.ofTrack track.kind, isCurrent, reel, track⟩

/-- An offered chunk judged (R53). -/
def Card.judge (c : Card) (h : ChunkHeader) : Verdict :=
  match Idx4.ofNat? h.screen with
  | none => .answer .badHeader
  | some sc =>
    if h.units < 1 ∨ 64 < h.units ∨ h.length < 64 ∨ 4194304 < h.length then .answer .badHeader
    else if !c.enabled sc || (c.scr sc).seq.state == .dark then .leave
    else c.judgeEntry h sc

/-- The permit chosen for an entry of a screen. -/
def Card.permitOfEntry (c : Card) (sc : Idx4) (entry : Nat) : Option U32 :=
  ((c.scr sc).seq.list[entry]?).bind (·.permit)

/-- Whether a candidate has the key its units need at intake (R57, R85). -/
def Card.hasKey (c : Card) (h : ChunkHeader) (k : Candidate) : Bool :=
  match k.kind with
  | .text _ => !k.track.isSealed || (c.textKey k.sc (c.permitOfEntry k.sc h.entry) k.track.id).isSome
  | _ => true

/-- A text key table entry made (R86), with KEY_WANTED. -/
def Card.addTextKey (c : Card) (sc : Idx4) (entry reel : Nat) (track : U32) (st : TextKeyState) : Card :=
  let c := c.modScr sc (fun x => { x with textKeys := x.textKeys ++ [{ track := track, reel := reel, state := st }] })
  c.raise (.screen sc) .keyWanted
    [(1, entry), (1, reel), (4, track.toNat), (1, if st = .declined then 2 else 1)]

/-- A key asked for and not found (R57, R86): the track is HELD, or DECLINED where four are held, and then the chunk is
answered RELEASED. -/
def Card.wantKey (c : Card) (e : DirEntry) (k : Candidate) : Card :=
  let held := ((c.scr k.sc).textKeys.filter (fun t => t.state == .held)).length
  if held < Config.heldTracks then c.addTextKey k.sc e.header.entry k.reel k.track.id .held
  else
    ((c.addTextKey k.sc e.header.entry k.reel k.track.id .declined).skipDeclined k.sc k.track.id).answerSlot e.slot
      e.gen .released e.header.screen

/-- One OFFERED entry judged at a tick (R53, R57). -/
def Card.judgeAtTick (c : Card) (e : DirEntry) : Card :=
  match e.standing with
  | .offered =>
    match c.judge e.header with
    | .answer r => c.answerSlot e.slot e.gen r e.header.screen
    | .leave => c
    | .candidate k => if c.hasKey e.header k then c else c.wantKey e k
  | _ => c

/-- The marks of tracks lent a key since the latest tick cleared. -/
def Card.settleFreshKeys (c : Card) : Card :=
  { c with screens := c.screens.map (fun x =>
      { x with textKeys := x.textKeys.map (fun k => { k with fresh := false }) }) }

/-- Every OFFERED entry judged (R53); chunks of a track lent a key since the latest tick are judged again with it (R57,
R87). DESIGN CHOICE (log 72): one tick judges the entries in slot order. -/
def Card.judgeAll (c : Card) : Card := c.directory.foldl Card.judgeAtTick c.settleFreshKeys

/-! ## The choice and the fetch (R58, R59) -/

/-- Whether a candidate's track was lent its key since the latest booth tick: intake judges its chunks again at the next
one (R57, R87). -/
def Card.awaitsTick (c : Card) (k : Candidate) : Bool :=
  (textKeyOf (c.scr k.sc).textKeys k.track.id).any (·.fresh)

/-- Whether a directory entry can be chosen: OFFERED, a candidate with its key, and no tally of a withdrawn generation
outstanding (R58). DESIGN CHOICE (log 47): what R58 calls the feeds and queues as they stand is the judgement made
afresh at the choice, also for an entry that the latest tick left or that came since. -/
def Card.choosable (c : Card) (e : DirEntry) : Option Candidate :=
  if e.standing = .offered ∧ ((c.slots[e.slot]?).bind (·.tally)).isNone then
    match c.judge e.header with
    | .candidate k => if c.hasKey e.header k && !c.awaitsTick k then some k else none
    | _ => none
  else none

/-- The queued frames of a candidate's feed (R58 step 2). -/
def Card.queuedFrames (c : Card) (h : ChunkHeader) (k : Candidate) : Nat :=
  let x := c.scr k.sc
  match k.kind with
  | .picture => queueFrames x.pictureQueue h.entry
  | .sound => queueFrames x.soundQueue h.entry
  | _ =>
    match x.seq.title, x.seq.position with
    | some t, some p => t.reelStart k.reel - (t.reelStart p.reel + p.frame)
    | _, _ => 0

/-- The order of the choice: frames in the screen's picture queue, screen number, queued frames, feed, current before
armed, slot number (R58). -/
def Card.choiceKey (c : Card) (e : DirEntry) (k : Candidate) : List Nat :=
  [queueDepth (c.scr k.sc).pictureQueue, k.sc.toNat, c.queuedFrames e.header k, k.kind.rank,
   if k.isCurrent then 0 else 1, e.slot]

/-- Whether a list of numbers comes before another, first difference deciding. -/
def lexBefore : List Nat → List Nat → Bool
  | a :: s, b :: t => decide (a < b) || (a == b && lexBefore s t)
  | _, _ => false

/-- The candidate with the first key. -/
def firstBy {α : Type} (key : α → List Nat) : List α → Option α
  | [] => none
  | x :: t =>
    match firstBy key t with
    | none => some x
    | some y => if lexBefore (key y) (key x) then some y else some x

/-- The entry the fetch engine chooses (R58). -/
def Card.chooseFetch (c : Card) : Option (DirEntry × Candidate) :=
  firstBy (fun x => c.choiceKey x.1 x.2)
    (c.directory.filterMap (fun e => (c.choosable e).map (fun k => (e, k))))

/-- A choice made and the fetch begun, or refused by area check (R58, R59). -/
def Card.startFetch (c : Card) (h : Header) : Card :=
  match c.fetch, c.chooseFetch with
  | none, some (e, k) =>
    let l := e.header.locator
    if h.grants l.area l.offset e.header.length (Ring.max .r1 l.ring) false then
      { c.modEntryOf e.slot (fun e => { e with standing := .inFetch }) with
        fetch := some { slot := e.slot, gen := e.gen } }
    else
      (c.answerSlot e.slot e.gen .areaFault e.header.screen).raise (.screen k.sc) .areaFault
        ((1, e.slot) :: l.fields)
  | _, _ => c

/-! ## Completion (R61 to R64) -/

/-- What the directory walk of R63 has made so far: expected frame and items. -/
structure TakenUnits where
  frame : Nat
  items : List QueueItem := []
  refs : Nat := 0
  deriving DecidableEq, Repr

/-- One unit of a picture or sound chunk (R63). -/
def TakenUnits.step (slot : Nat) (gen : U32) (entry reel duration : Nat) (a : TakenUnits) (u : UnitEntry) :
    TakenUnits :=
  if u.frame < a.frame ∨ duration ≤ u.frame then a
  else
    let gap := if a.frame < u.frame then [QueueItem.missing entry reel a.frame (u.frame - a.frame)] else []
    let r : Ref :=
      { slot := slot, gen := gen, offset := u.offset, length := u.length, check := u.check, frame := u.frame
        reel := reel, entry := entry }
    { frame := u.frame + 1, items := a.items ++ gap ++ [.ref r], refs := a.refs + 1 }

/-- The placeholder of a LAST chunk for the rest of its reel (R63). DESIGN CHOICE (log 77): the expected frame is then
the reel's duration, so that the feed of a LAST chunk always moves on to the next reel. -/
def TakenUnits.finish (entry reel duration : Nat) (isLast : Bool) (a : TakenUnits) : TakenUnits :=
  if isLast && decide (a.frame < duration) then
    { a with frame := duration, items := a.items ++ [.missing entry reel a.frame (duration - a.frame)] }
  else a

/-- A feed after a chunk's units: sequence up by one, the expected frame as given, on to the next reel at the reel's end
(R63, R64). -/
def nextFeed (t : Title) (k : FeedKind) (declined : List U32) (f : Feed) (frame : Nat) (reelOver : Bool) : Feed :=
  if reelOver then feedFrom t.reels k declined (f.reel + 1)
  else { f with sequence := f.sequence + 1, frame := frame }

/-- Two headers of the same screen, load, entry, track and sequence (R56). -/
def ChunkHeader.duplicates (a b : ChunkHeader) : Bool :=
  a.screen == b.screen && a.load == b.load && a.entry == b.entry && a.track == b.track && a.sequence == b.sequence

/-- The duplicates of a chunk whose units were taken are answered DUPLICATE (R56). DESIGN CHOICE (log 73): they are
answered in slot order, after the chunk's own answer. -/
def Card.answerDuplicates (c : Card) (slot : Nat) (h : ChunkHeader) : Card :=
  (c.directory.filter (fun e => e.slot != slot && e.standing == .offered && e.header.duplicates h)).foldl
    (fun c e => c.answerSlot e.slot e.gen .duplicate e.header.screen) c

/-- The units of a picture or sound chunk taken (R63). -/
def Card.takeUnits (c : Card) (e : DirEntry) (k : Candidate) (t : Title) (feed : Feed) (us : List UnitEntry) : Card :=
  let duration := (t.reels.map (·.duration)).getD k.reel 0
  let a := (us.foldl (TakenUnits.step e.slot e.gen e.header.entry k.reel duration) { frame := feed.frame }).finish
    e.header.entry k.reel duration e.header.isLast
  let declined := declinedTracks (c.scr k.sc).textKeys
  let c := c.modScr k.sc (fun x =>
    match k.kind with
    | .picture => { x with pictureQueue := appendItems x.pictureQueue e.header.entry k.isCurrent a.items }
    | _ => { x with soundQueue := appendItems x.soundQueue e.header.entry k.isCurrent a.items })
  let c := c.setFeed k.sc e.header.entry k.kind (nextFeed t k.kind declined feed a.frame (decide (duration ≤ a.frame)))
  if a.refs = 0 then c.answerSlot e.slot e.gen .surplus e.header.screen
  else
    (c.modEntryOf e.slot (fun e => { e with standing := .inUse, changed := false })).modSlot e.slot
      (fun x => { x with tally := some { gen := e.gen, outstanding := a.refs } })

/-- One unit of a text or automation chunk (R64). The accumulator is the card, the expected frame and whether a unit was
taken. DESIGN CHOICE (log 78): the key of a sealed unit is the one the track has at the completion; where it has none
then (the LOAD of log 74), key 0 unseals it. -/
def Card.takeTextUnit (e : DirEntry) (k : Candidate) (duration : Nat) (data : List Byte)
    (a : Card × Nat × Bool) (u : UnitEntry) : Card × Nat × Bool :=
  let c := a.1
  if u.frame < a.2.1 ∨ duration ≤ u.frame then a
  else
    let raw := slice data u.offset u.length
    let key := (c.textKey k.sc (c.permitOfEntry k.sc e.header.entry) k.track.id).getD 0
    let plain := if e.header.isSealed then unsealBytes key raw else raw
    let c :=
      if checkValue plain ≠ u.check then c.textFault k.sc .check e.header.entry k.reel u.frame
      else c.textUnitTaken k.sc e.header.entry k.reel duration u.frame k.track.kind plain
    (c, u.frame + 1, true)

/-- The units of a text or automation chunk taken (R64). -/
def Card.takeTextUnits (c : Card) (e : DirEntry) (k : Candidate) (t : Title) (feed : Feed) (us : List UnitEntry)
    (data : List Byte) : Card :=
  let duration := (t.reels.map (·.duration)).getD k.reel 0
  let a := us.foldl (Card.takeTextUnit e k duration data) (c, feed.frame, false)
  let declined := declinedTracks (c.scr k.sc).textKeys
  let reelOver := e.header.isLast || decide (duration ≤ a.2.1)
  (a.1.setFeed k.sc e.header.entry k.kind (nextFeed t k.kind declined feed a.2.1 reelOver)).answerSlot e.slot e.gen
    (if a.2.2 then .spent else .surplus) e.header.screen

/-- A chunk that passed R61 taken by its feed, once the unit directory is checked (R63). -/
def Card.takeChunk (c : Card) (e : DirEntry) (k : Candidate) (t : Title) (feed : Feed) (data : List Byte) : Card :=
  match unitDirectory data e.header.units with
  | none => c.answerSlot e.slot e.gen .badHeader e.header.screen
  | some us =>
    (if k.kind.isText then c.takeTextUnits e k t feed us data else c.takeUnits e k t feed us).answerDuplicates e.slot
      e.header

/-- A chunk that passed R61 judged against its screen as it stands (R62). DESIGN CHOICE (log 74): where the entry is
current or armed under the same load number and no longer a TITLE with the chunk's track id, the chunk's use has gone,
and the slot is answered RELEASED. -/
def Card.judgeFetched (c : Card) (e : DirEntry) (data : List Byte) : Card :=
  let released := c.answerSlot e.slot e.gen .released e.header.screen
  match Idx4.ofNat? e.header.screen with
  | none => released
  | some sc =>
    let q := (c.scr sc).seq
    let titleOver := match q.state with | .dark | .finished _ => true | _ => false
    match c.feedsOf sc e.header.entry, q.titleOf e.header.entry with
    | some fs, some t =>
      match t.findTrack e.header.track with
      | none => released
      | some (reel, track) =>
        let k : Candidate := ⟨sc, FeedKind.ofTrack track.kind, q.current == some e.header.entry, reel, track⟩
        let feed := fs.get k.kind
        if titleOver || decide (q.loadNumber ≠ some e.header.load) then released
        else
          match feed.placing reel e.header.sequence with
          | .behind => released
          | .beyond => c.modEntryOf e.slot (fun e => { e with standing := .offered })
          | .here => c.takeChunk e k t feed data
    | _, _ => released

/-- A staged chunk discarded because its offer changed: the entry goes, and R50 is applied to the slot at once (R61). -/
def Card.discardFetched (c : Card) (m : Mem) (h : Header) (slot : Nat) : Card :=
  (c.dropEntryOf slot).refreshSlot m h slot

/-- The last burst of the fetch in flight has been read (R61). -/
def Card.completeFetch (c : Card) (m : Mem) (h : Header) : Card :=
  match c.fetch with
  | none => c
  | some f =>
    let c := { c with fetch := none }
    match c.dirEntry f.slot with
    | none => c
    | some e =>
      let data := m.readBytes (h.locate e.header.locator) e.header.length
      let access := BusAccess.offerRead (Fin.ofNat 256 e.slot)
      if checkValue data ≠ e.header.check then c.answerSlot e.slot e.gen .checkFailed e.header.screen
      else if e.changed then c.discardFetched m h e.slot
      else if c.busFailed access then
        ((c.busDone access).memoryFault false poolPlace .offerWord (h.slotAddr e.slot)).discardFetched m h e.slot
      else if BitVec.ofNat 32 (m.field (h.slotAddr e.slot) 4) ≠ e.gen then
        (c.busDone access).discardFetched m h e.slot
      else (c.busDone access).judgeFetched e data

/-! ## Stops (R70) -/

/-- Intake's part of the stop is complete: no fetch in flight, every tally cleared (R70). -/
def Card.intakeStopDone (c : Card) : Bool := c.fetch.isNone && c.slots.all (fun x => x.tally.isNone)

end Sys2Proof.Machine
end

