-- ==== Sys2Proof/Machine/Picture.lean ====
section
/-! DEFINITION. Units at play (R95 to R99, R132) and the picture port (chapter 7): the link, frame transfers, back-off
and the settling of presented frames. -/
namespace Sys2Proof.Machine

/-! ## Staging and reading units (R95 to R97, R132) -/

/-- The queue of a reader. -/
def Screen.queueOf (x : Screen) : Reader → List QueueItem
  | .picture => x.pictureQueue
  | .sound => x.soundQueue

/-- The staged unit of a reader. -/
def Screen.stagedOf (x : Screen) : Reader → Option Staged
  | .picture => x.port.staged
  | .sound => x.sound.staged

/-- A reader's staged unit written. -/
def Card.setStaged (c : Card) (sc : Idx4) (r : Reader) (g : Option Staged) : Card :=
  match r with
  | .picture => c.modPort sc (fun p => { p with staged := g })
  | .sound => c.modSound sc (fun x => { x with staged := g })

/-- The feed kind of a reader. -/
def readerKind : Reader → FeedKind
  | .picture => .picture
  | .sound => .sound

/-- The reference at the head of a reader's queue that it may stage (R95, R132). -/
def Card.stageable (c : Card) (sc : Idx4) (r : Reader) : Option Ref :=
  let x := c.scr sc
  match x.queueOf r, x.stagedOf r with
  | .ref g :: _, none =>
    if x.seq.current = some g.entry then some g
    else if x.seq.armed = some g.entry ∧ c.armedMayTake sc (readerKind r) then some g
    else none
  | _, _ => none

/-- A unit read begun with the offer re-check of R68 (R95). -/
def Card.startUnitRead (c : Card) (m : Mem) (h : Header) (sc : Idx4) (r : Reader) : Card :=
  match c.stageable sc r with
  | none => c
  | some g =>
    match c.dirEntry g.slot with
    | none => c
    | some e =>
      let access := BusAccess.offerRead (Fin.ofNat 256 g.slot)
      if c.busFailed access then
        (c.busDone access).setStaged sc r (some ⟨g, e.header.locator, .failed .read⟩)
      else if BitVec.ofNat 32 (m.field (h.slotAddr g.slot) 4) ≠ g.gen then
        (c.busDone access).withdraw g.slot g.gen
      else (c.busDone access).setStaged sc r (some ⟨g, e.header.locator, .reading 0 0⟩)

/-- The bytes of a staged unit in booth memory (R96). -/
def unitBytes (m : Mem) (h : Header) (g : Staged) : List Byte :=
  m.readBytes (h.addr g.locator.area (g.locator.offset + g.ref.offset)) g.ref.length

/-- The title of a reference's entry. -/
def Card.titleOfRef (c : Card) (sc : Idx4) (g : Ref) : Option Title := (c.scr sc).seq.titleOf g.entry

/-- The track of a reference: that of its reel and the reader's kind. -/
def Card.trackOfRef (c : Card) (sc : Idx4) (r : Reader) (g : Ref) : Option Track :=
  (c.titleOfRef sc g).bind (fun t => (t.reels[g.reel]?).bind (fun x => x.trackOf (readerKind r)))

/-- The plain bytes of a unit at play (R85, R89). -/
def Card.plainUnit (c : Card) (sc : Idx4) (r : Reader) (g : Ref) (raw : List Byte) : List Byte :=
  match c.trackOfRef sc r g with
  | some t => if t.isSealed then unsealBytes ((c.permitKey (c.permitOfEntry sc g.entry) t.id).getD 0) raw else raw
  | none => raw

/-- The unit check over the plain bytes (R97 step 3, R132). -/
def checkedUnit (check : U32) (plain : List Byte) : StagedState :=
  if checkValue plain = check then .ready plain else .failed .check

/-- The length a sound unit must have (R97 step 1): channels × samples per frame × 3 bytes. -/
def Card.soundUnitLength (c : Card) (sc : Idx4) (g : Ref) : Nat :=
  match c.titleOfRef sc g, c.trackOfRef sc .sound g with
  | some t, some ⟨.sound rate channels, _, _⟩ => channels * samplesPerFrame rate t.rate * 3
  | _, _ => 0

/-- A sound unit read completes (R97). -/
def Card.endSoundRead (c : Card) (m : Mem) (h : Header) (sc : Idx4) : Card :=
  match (c.scr sc).sound.staged with
  | some ⟨g, l, .reading _ _⟩ =>
    let st :=
      if g.length ≠ c.soundUnitLength sc g then .failed .length
      else checkedUnit g.check (c.plainUnit sc .sound g (unitBytes m h ⟨g, l, .reading 0 0⟩))
    c.setStaged sc .sound (some ⟨g, l, st⟩)
  | _ => c

/-- A picture unit read completes (R132). -/
def Card.endPictureRead (c : Card) (m : Mem) (h : Header) (sc : Idx4) : Card :=
  match (c.scr sc).port.staged with
  | some ⟨g, l, .reading _ _⟩ =>
    c.setStaged sc .picture
      (some ⟨g, l, checkedUnit g.check (c.plainUnit sc .picture g (unitBytes m h ⟨g, l, .reading 0 0⟩))⟩)
  | _ => c

/-! ## The head item taken at a presented frame (R98, R133) -/

/-- What a reader has of the frame at the head of its queue. -/
inductive Taken where
  | ready (bytes : List Byte)
  | failed (cause : UnitCause)
  deriving DecidableEq, Repr

/-- What the head item gives (R98): the staged unit's bytes or cause, LATE where no read of it has ended, MISSING for a
placeholder. -/
def takenOf (q : List QueueItem) (staged : Option Staged) : Taken :=
  match q with
  | .ref r :: _ =>
    match staged with
    | some g =>
      if g.ref = r then
        match g.state with
        | .ready bytes => .ready bytes
        | .failed cause => .failed cause
        | .reading _ _ => .failed .late
      else .failed .late
    | none => .failed .late
  | _ => .failed .missing

/-- The head item's frame leaves the queue; a reference is consumed, and its staged unit is used or abandoned (R66,
R98). -/
def Card.takeHead (c : Card) (sc : Idx4) (r : Reader) : Card :=
  let x := c.scr sc
  let c := match r with
    | .picture => c.modScr sc (fun x => { x with pictureQueue := popFrame x.pictureQueue })
    | .sound => c.modScr sc (fun x => { x with soundQueue := popFrame x.soundQueue })
  match x.queueOf r with
  | .ref g :: _ =>
    let c := if (x.stagedOf r).map (·.ref) = some g then c.setStaged sc r none else c
    c.consume sc g.slot g.gen
  | _ => c

/-- The fault of a frame whose unit did not come out. -/
def frameFault (kind : FaultClass) (cause : UnitCause) (f : Presented) : FaultReport :=
  { kind := kind, cause := some cause.toFault, entry := some f.entry, reel := some f.reel, frame := some f.frame }

/-- The sound renderer's part at a boundary (R94, R98): what the mix is fed for the frame period that begins. -/
def Card.feedSound (c : Card) (sc : Idx4) (f : Option Presented) : Card :=
  match f with
  | some p =>
    if p.isTitle then
      let x := c.scr sc
      let track := match x.soundQueue with
        | .ref g :: _ => c.trackOfRef sc .sound g
        | _ => none
      let taken := takenOf x.soundQueue x.sound.staged
      let c := c.takeHead sc .sound
      match taken, track with
      | .ready bytes, some ⟨.sound rate channels, _, _⟩ =>
        c.modSound sc (fun x => { x with feed := some ⟨bytes, channels, rate⟩ })
      | .ready _, _ => c.modSound sc (fun x => { x with feed := none })
      | .failed cause, _ =>
        ((c.modSound sc (fun x => { x with feed := none })).fault sc (frameFault .soundUnit cause p)).countSoundFault
          sc p.entry
    else c.modSound sc (fun x => { x with feed := none })
  | none => c.modSound sc (fun x => { x with feed := none })

/-! ## The link (R130, R131) -/

/-- LINK_CHANGE raised (R130). -/
def Card.linkChanged (c : Card) (sc : Idx4) (old new : LinkState) (cause : LinkCause) : Card :=
  c.raise (.screen sc) .linkChange [(1, old.code), (1, new.code), (1, cause.code)]

/-- A LINK_LOST fault handed over, and outage reported set (R131). -/
def Card.linkLost (c : Card) (sc : Idx4) : Card :=
  let q := (c.scr sc).seq
  (c.fault sc { kind := .linkLost, cause := none, entry := q.current, reel := q.position.map (·.reel)
                frame := q.position.map (·.frame) }).modPort sc (fun p => { p with outage := true })

/-- A presented frame settled lost (R135). -/
def PicturePort.loseFrame (p : PicturePort) : PicturePort := { p with lost := p.lost + 1 }

/-- A transfer in flight abandoned: a PICTURE transfer's frame is lost (R135). -/
def PicturePort.abandon (p : PicturePort) : PicturePort :=
  match p.transfer with
  | none => p
  | some t =>
    let p := { p with transfer := none }
    match t.kind with
    | .picture => p.loseFrame
    | _ => p

/-- The link goes DOWN from TRAINING or UP (R130, R131): a link that leaves UP clears back-off, a transfer in flight is
abandoned, and a link that leaves UP while the screen is RUNNING is a LINK_LOST fault. DESIGN CHOICE (log 59): the
training count is 0 outside TRAINING. -/
def Card.linkDown (c : Card) (sc : Idx4) (cause : LinkCause) : Card :=
  let x := c.scr sc
  let old := x.port.link
  let c := c.modPort sc (fun p =>
    { p.abandon with link := .down, training := 0, backOff := p.backOff && old != .up, output := .nothing })
  let c := c.linkChanged sc old .down cause
  if old = .up ∧ x.seq.state = .running then c.linkLost sc else c

/-- The projector answers a training offer (R130). -/
def Card.linkFound (c : Card) (sc : Idx4) : Card :=
  match (c.scr sc).port.link with
  | .down =>
    (c.modPort sc (fun p => { p with link := .training, training := 0 })).linkChanged sc .down .training .found
  | _ => c

/-- The projector confirms that training has succeeded (R130, R131); the training count is 0 outside TRAINING (log
59). -/
def Card.linkTrained (c : Card) (sc : Idx4) : Card :=
  match (c.scr sc).port.link with
  | .training =>
    (c.modPort sc (fun p => { p with link := .up, training := 0, answerWait := 0, outage := false, output := .nothing
      })).linkChanged sc .training .up .trained
  | _ => c

/-- The projector reports that training has failed (R130). -/
def Card.trainingFailed (c : Card) (sc : Idx4) : Card :=
  match (c.scr sc).port.link with
  | .training => c.linkDown sc .trainingFailed
  | _ => c

/-- The link signal is lost (R130). -/
def Card.signalLost (c : Card) (sc : Idx4) : Card :=
  match (c.scr sc).port.link with
  | .down => c
  | _ => c.linkDown sc .signalLost

/-- The training count goes up by one; at 48 the link goes DOWN (R130). -/
def Card.trainingCount (c : Card) (sc : Idx4) : Card :=
  let n := (c.scr sc).port.training + 1
  if n < Config.trainingLimit then c.modPort sc (fun p => { p with training := n })
  else c.linkDown sc .trainingTimeout

/-- The port's training output at a boundary (R130). DESIGN CHOICE (log 60): the boundary at which the training count
reaches 48 sends nothing, and an offer where TRAINING_TIMEOUT has come before it. -/
def Card.trainLink (c : Card) (sc : Idx4) : Card :=
  match (c.scr sc).port.link with
  | .down => c.modPort sc (fun p => { p with output := .offer })
  | .training => (c.modPort sc (fun p => { p with output := .trainingFrame })).trainingCount sc
  | .up => c

/-! ## Transfers (R133 to R136) -/

/-- The boundary abandons the transfer in flight (R135); one with no answer of any kind adds 1 to the answer-wait count,
and at 8 the link goes DOWN (R130). A fault hold that this makes due is acted on at the next boundary (R39). -/
def Card.settleTransfer (c : Card) (sc : Idx4) : Card :=
  let x := c.scr sc
  match x.port.transfer with
  | none => c
  | some t =>
    let c := c.modPort sc PicturePort.abandon
    if t.answered then c
    else
      let n := x.port.answerWait + 1
      let c := c.modPort sc (fun p => { p with answerWait := n })
      if n < Config.answerWaitLimit then c
      else
        (c.linkDown sc .noAnswer).modSeq sc (fun q =>
          { q with dueLater := q.dueLater || (q.faultHoldDue && !x.seq.faultHoldDue) })

/-- The picture segments of a transfer (R133). -/
def pictureSegments (bs : List Byte) : List Segment :=
  (List.range (ceilDiv bs.length Config.segmentBytes)).map (fun i =>
    .picture (slice bs (Config.segmentBytes * i) Config.segmentBytes))

/-- The segments of a transfer in order (R133). -/
def transferSegments (sc : Idx4) (count : U16) (kind : TransferKind) (f : Option Presented) (bytes : List Byte)
    (overlay : List OverlayCue) : List Segment :=
  match kind with
  | .picture => .header sc count kind f bytes.length :: (pictureSegments bytes ++ [.overlay overlay])
  | .faultDark => [.header sc count kind f 0, .overlay overlay]
  | .dark => [.header sc count kind none 0]

/-- A frame transfer begun (R133). -/
def PicturePort.begin (p : PicturePort) (sc : Idx4) (kind : TransferKind) (f : Option Presented) (bytes : List Byte)
    (overlay : List OverlayCue) : PicturePort :=
  let n := p.frameCount + 1
  { p with
    frameCount := n
    transfer := some { kind := kind, count := n, frame := f
                       segments := transferSegments sc n kind f bytes overlay } }

/-- A DARK transfer at a boundary without a presented TITLE frame, where the link is UP (R133). -/
def Card.sendDark (c : Card) (sc : Idx4) : Card :=
  if (c.scr sc).port.link = .up then c.modPort sc (fun p => p.begin sc .dark none [] []) else c

/-- A presented TITLE frame's picture sent, or settled without a transfer where the link is not UP (R131, R133, R135).
DESIGN CHOICE (log 61): LINK_LOST is handed over before the frame's PICTURE_UNIT fault (R165). -/
def Card.sendPicture (c : Card) (sc : Idx4) (f : Presented) (overlay : List OverlayCue) : Card :=
  let x := c.scr sc
  let up := decide (x.port.link = .up)
  let taken := takenOf x.pictureQueue x.port.staged
  let c := (c.takeHead sc .picture).modPort sc (fun p => { p with lastDelivered := false })
  let c := if !up && !x.port.outage then c.linkLost sc else c
  match taken with
  | .ready bytes =>
    if up then c.modPort sc (fun p => p.begin sc .picture (some f) bytes overlay)
    else c.modPort sc PicturePort.loseFrame
  | .failed cause =>
    let c := c.modPort sc (fun p => { p with faulted := p.faulted + 1 })
    let c := if up then c.modPort sc (fun p => p.begin sc .faultDark (some f) [] overlay) else c
    c.fault sc (frameFault .pictureUnit cause f)

/-- A boundary at which no TITLE frame is presented: no frame in progress can be counted delivered (R47), and a DARK
transfer is sent (R133). -/
def Card.endDark (c : Card) (sc : Idx4) : Card :=
  (c.modPort sc (fun p => { p with lastDelivered := false })).sendDark sc

/-- The port's transfer at a boundary (R133). -/
def Card.transferPicture (c : Card) (sc : Idx4) (f : Option Presented) : Card :=
  match f with
  | some p => if p.isTitle then c.sendPicture sc p (c.overlayCues sc p.frame) else c.endDark sc
  | none => c.endDark sc

/-- A segment finishes sending (R134). While back-off is set the port sends nothing. -/
def PicturePort.segmentSent (p : PicturePort) : PicturePort :=
  match p.transfer with
  | none => p
  | some t =>
    if p.backOff = false ∧ t.sent < t.segments.length then
      { p with transfer := some { t with sent := t.sent + 1, cut := false } }
    else p

/-- A transfer receives an answer of any kind (R134, R135). -/
def PicturePort.answer (p : PicturePort) : PicturePort :=
  match p.transfer with
  | none => p
  | some t => { p with answerWait := 0, transfer := some { t with answered := true } }

/-- The projector asks for back-off (R134): it is set, and the segment being sent, if a transfer is in flight, is cut
short. -/
def PicturePort.requestBackOff (p : PicturePort) : PicturePort :=
  let q := { p.answer with backOff := true }
  { q with transfer := q.transfer.map (fun t =>
      { t with cut := t.cut || (!p.backOff && decide (t.sent < t.segments.length)) }) }

/-- The projector releases the back-off (R134): it is cleared, and a cut-short segment is sent again from its first
byte. -/
def PicturePort.releaseBackOff (p : PicturePort) : PicturePort :=
  let q := { p.answer with backOff := false }
  { q with transfer := q.transfer.map (fun t => { t with cut := false }) }

/-- A TAKEN answer (R135): the transfer ends, and a PICTURE frame is delivered. -/
def Card.projectorTaken (c : Card) (sc : Idx4) (count : U16) : Card :=
  match (c.scr sc).port.transfer with
  | none => c
  | some t =>
    if t.count ≠ count then c
    else
      let c := c.modPort sc (fun p => { p with transfer := none, answerWait := 0 })
      match t.kind, t.frame with
      | .picture, some f =>
        (c.modPort sc (fun p => { p with delivered := p.delivered + 1, lastDelivered := true })).deliveredFrame sc f
      | _, _ => c

/-- A REFUSED answer (R135): the transfer ends, and a PICTURE frame is lost. -/
def Card.projectorRefused (c : Card) (sc : Idx4) (count : U16) : Card :=
  match (c.scr sc).port.transfer with
  | none => c
  | some t =>
    if t.count ≠ count then c
    else
      let c := c.modPort sc (fun p => { p with transfer := none, answerWait := 0 })
      match t.kind with
      | .picture => c.modPort sc PicturePort.loseFrame
      | _ => c

/-- The emergency latch is set or the engine enters STOPPING (R136): a transfer that carries a presented frame is
abandoned at once, a DARK one goes on. -/
def PicturePort.interrupt (p : PicturePort) : PicturePort :=
  match p.transfer with
  | none => p
  | some t =>
    match t.kind with
    | .dark => p
    | _ => p.abandon

/-- The port when the engine enters OFF (R129). DESIGN CHOICE (log 58): back-off is cleared whatever the link's state
was. -/
def PicturePort.enterOff (p : PicturePort) : PicturePort :=
  { frameCount := p.frameCount }

end Sys2Proof.Machine
end

