-- ==== Sys2Proof/Machine/Automation.lean ====
section
/-! DEFINITION. The automation unit (chapter 8): patterns, pulse timers and cues. -/
namespace Sys2Proof.Machine

/-! ## Patterns (R139) -/

/-- Every screen's outputs take a pattern as a whole, and every pulse timer is cancelled (R139). -/
def Automation.setPattern (a : Automation) (p : Quad (BitVec 8)) : Automation :=
  { a with outputs := p, timers := Quad.const [] }

/-- The pattern of an engine reset or an entry to STOPPING: the safe pattern, or the emergency pattern while the latch
is set (R139). -/
def Automation.restPattern (a : Automation) : Automation := a.setPattern (if a.latch then a.emergency else a.safe)

/-- The pattern copies replaced on entering STARTING; with the latch set the outputs take the new emergency pattern
(R138, R139). -/
def Automation.copyPatterns (a : Automation) (safe emergency : Quad (BitVec 8)) : Automation :=
  let a := { a with safe := safe, emergency := emergency }
  if a.latch then a.setPattern emergency else a

/-! ## Outputs and timers (R141, R142) -/

/-- One bit of a pattern written. -/
def writeBit (p : BitVec 8) (n : Nat) (b : Bool) : BitVec 8 :=
  if b then p ||| (1#8 <<< n) else p &&& ~~~(1#8 <<< n)

/-- An output of a screen driven. -/
def Automation.drive (a : Automation) (sc : Idx4) (n : Nat) (b : Bool) : Automation :=
  { a with outputs := a.outputs.modify sc (fun p => writeBit p n b) }

/-- A pulse timer of a screen started, or cancelled. -/
def Automation.setTimer (a : Automation) (sc : Idx4) (n : Nat) (w : Option Nat) : Automation :=
  { a with timers := a.timers.modify sc (fun ts =>
      match w with
      | none => FMap.erase ts n
      | some k => FMap.put ts n k) }

/-- One running timer counted down; at 0 it is removed and its output turned off (R142). -/
def Automation.countTimer (a : Automation) (sc : Idx4) (t : Nat × Nat) : Automation :=
  if t.2 ≤ 1 then (a.setTimer sc t.1 none).drive sc t.1 false else a.setTimer sc t.1 (some (t.2 - 1))

/-- Step 1 of R140: each running timer of the screen is counted down. -/
def Automation.countTimers (a : Automation) (sc : Idx4) : Automation :=
  (a.timers.get sc).foldl (fun a t => a.countTimer sc t) a

/-- A pulse timer that reaches 0 (R142). -/
def Automation.expire (a : Automation) (sc : Idx4) (n : Nat) : Automation :=
  if FMap.find (a.timers.get sc) n = some 1 then (a.setTimer sc n none).drive sc n false else a

/-! ## Cues (R140, R141) -/

/-- Where a cue comes from: the AUTOMATION track, or the entry cue list with the cue's index. -/
inductive CueSource where
  | track
  | list (index : Nat)
  deriving DecidableEq, Repr

/-- The source and index of a CUE_PASSED detail (R141, R185). -/
def CueSource.fields : CueSource → List (Nat × Nat)
  | .track => [(1, 1), (1, noneCode 1)]
  | .list i => [(1, 2), (1, i)]

/-- A cue as it is applied: its frame, source, action code and arguments. -/
structure FiredCue where
  frame : Presented
  source : CueSource
  code : Nat
  arg1 : Nat
  arg2 : Nat
  deriving DecidableEq, Repr

/-- CUE_PASSED raised (R141); the reason is UNKNOWN_ACTION 1 or OUT_OF_RANGE 2. -/
def Card.cuePassed (c : Card) (sc : Idx4) (k : FiredCue) (reason : Nat) : Card :=
  c.raise (.screen sc) .cuePassed
    ([(1, k.frame.entry), (1, k.frame.reel), (4, k.frame.frame)] ++ k.source.fields ++
      [(1, k.code), (2, k.arg1), (2, k.arg2), (1, reason)])

/-- The automation unit changed. -/
def Card.modAuto (c : Card) (f : Automation → Automation) : Card := c.noteBooth { c with auto := f c.auto }

/-- A SET, CLEAR or PULSE in range (R141, R142); while the latch is set it is not applied. -/
def Card.driveCue (c : Card) (sc : Idx4) (n : Nat) (on : Bool) (width : Option Nat) : Card :=
  if c.auto.latch then c else c.modAuto (fun a => (a.setTimer sc n width).drive sc n on)

/-- A cue applied (R141). -/
def Card.applyCue (c : Card) (sc : Idx4) (k : FiredCue) : Card :=
  match k.code with
  | 1 => if k.arg1 ≤ 7 then c.driveCue sc k.arg1 true none else c.cuePassed sc k 2
  | 2 => if k.arg1 ≤ 7 then c.driveCue sc k.arg1 false none else c.cuePassed sc k 2
  | 3 =>
    if k.arg1 ≤ 7 ∧ 1 ≤ k.arg2 ∧ k.arg2 ≤ 255 then c.driveCue sc k.arg1 true (some k.arg2)
    else c.cuePassed sc k 2
  | 4 => c.levelCue sc k.arg1 k.arg2
  | _ => c.cuePassed sc k 1

/-- The entry cues of a presented frame, in list order with their indices (R140 step 2). -/
def Sequencer.dueCues (q : Sequencer) (f : Presented) : List FiredCue :=
  match q.list[f.entry]? with
  | none => []
  | some e =>
    (List.range e.cues.length).filterMap (fun i =>
      match e.cues[i]? with
      | none => none
      | some k =>
        if k.reel = f.reel ∧ k.frame = f.frame then some ⟨f, .list i, k.code, k.arg1, k.arg2⟩ else none)

/-- The automation unit's work at a boundary (R140): timers, then entry cues, then track cues of the presented frame. -/
def Card.fireCues (c : Card) (sc : Idx4) (f : Option Presented) (track : List AutoCue) : Card :=
  let c := c.modAuto (fun a => a.countTimers sc)
  match f with
  | none => c
  | some p =>
    let c := ((c.scr sc).seq.dueCues p).foldl (fun c k => c.applyCue sc k) c
    track.foldl (fun c k => c.applyCue sc ⟨p, .track, k.code, k.arg1, k.arg2⟩) c

/-! ## Inputs (R143) -/

/-- The fields of INPUT_CHANGE (R143, R186): the new values of the eight inputs and their change flags. -/
def inputFields (old new : BitVec 8) : List (Nat × Nat) := [(1, new.toNat), (1, (old ^^^ new).toNat)]

/-- The booth inputs sampled while the engine works (R143). -/
def Card.sampleInputs (c : Card) (inputs : BitVec 8) : Card :=
  let old := c.auto.inputs
  let c := c.modAuto (fun a => { a with inputs := inputs })
  if old = inputs then c else c.raise .booth .inputChange (inputFields old inputs)

/-! ## The latch (R144 to R146) -/

/-- The emergency pattern on every screen's outputs with the latch set (R144 step 1). -/
def Automation.setLatch (a : Automation) : Automation := { a.setPattern a.emergency with latch := true }

/-- The fields of EMERGENCY (R144): the booth time at the setting, and each screen's state before the finish. -/
def emergencyFields (time : Option U64) (states : Quad ScreenState) : List (Nat × Nat) :=
  timeField time :: (states.map (fun s => (1, s.codes.1))).toList

/-- CLEAR_EMERGENCY (R146). -/
def Card.clearEmergency (c : Card) (number : U32) : Card :=
  if c.auto.emergencySample then c.answer .booth number .refusedState
  else if c.auto.latch then
    (c.modAuto (fun a => { a with latch := false, owed := none })).answer .booth number .done
  else c.answer .booth number .done [(1, DetailWord.notSet.code)]

end Sys2Proof.Machine
end

