-- ==== Sys2Proof/Machine/Sequencer.lean ====
section
/-! DEFINITION. The show sequencer (chapter 2): arming, completion, presentation, the ends of entries, holds, starvation
and finishing. -/
namespace Sys2Proof.Machine

/-! ## Arming (R26 to R28, R81) -/

/-- A show list entry changed. -/
def Card.modListEntry (c : Card) (sc : Idx4) (i : Nat) (f : Entry → Entry) : Card :=
  c.modSeq sc (fun q => { q with list := q.list.modify i f })

/-- An entry's arming status written (R20). -/
def Card.setStatus (c : Card) (sc : Idx4) (i : Nat) (st : ArmStatus) : Card :=
  c.modListEntry sc i (fun e => { e with status := st })

/-- A condition judged against the input sample (R9). -/
def Condition.holds (k : Condition) (inputs : BitVec 8) : Bool :=
  match k with
  | .always => true
  | .inputSet n => inputs.getLsbD n
  | .inputClear n => !inputs.getLsbD n

/-- ENTRY_REFUSED raised (R27, R82). -/
def Card.entryRefused (c : Card) (sc : Idx4) (i : Nat) (f : ArmFailure) : Card :=
  c.raise (.screen sc) .entryRefused
    [(1, i), (1, f.reason.code), permitField f.permit, (4, (f.track.map (·.toNat)).getD 0)]

/-- The permit reserved for an entry of a sealed title (R27 step 1, R84): the reserved permit's id, or the refusal. An
unsealed title needs none. -/
def Card.reserveFor (c : Card) (sc : Idx4) (i : Nat) (t : Title) : Except ArmFailure (Card × Option U32) :=
  if t.isSealed then
    match c.permits.choose sc t with
    | .error f => .error f
    | .ok (place, p) =>
      .ok ((c.reserve place p).modListEntry sc i (fun e => { e with permit := some p.id }), some p.id)
  else .ok (c, none)

/-- A TITLE entry armed (R27); the second part says whether it was. Its feeds are made (R52). -/
def Card.armTitle (c : Card) (sc : Idx4) (i : Nat) (t : Title) : Card × Bool :=
  match c.reserveFor sc i t with
  | .error f => (c.entryRefused sc i f, false)
  | .ok (c, permit) =>
    if c.counter.mayCreate then
      ((c.createRecord sc i t permit).modScr sc (fun x => { x with armedFeeds := some (feedsFrom t [] 0) }), true)
    else
      (((c.release permit).modListEntry sc i (fun e => { e with permit := none })).entryRefused sc i
        { reason := .logFull }, false)

/-- An entry armed (R27): an INTERVAL or MARK without calling on any block. -/
def Card.armEntry (c : Card) (sc : Idx4) (i : Nat) : Card × Bool :=
  match (c.scr sc).seq.titleOf i with
  | some t => c.armTitle sc i t
  | none => (c.modScr sc (fun x => { x with armedFeeds := none }), true)

/-- An arming pass (R26) over at most a number of entries; the second part is the entry armed. -/
def Card.armPass (c : Card) (sc : Idx4) : Nat → Card × Option Nat
  | 0 => (c, none)
  | n + 1 =>
    let i := (c.scr sc).seq.nextLook
    match (c.scr sc).seq.list[i]? with
    | none => (c, none)
    | some e =>
      let c := c.modSeq sc (fun q => { q with nextLook := i + 1 })
      if e.status ≠ .notArmed then Card.armPass c sc n
      else if e.condition.holds c.auto.inputs then
        match c.armEntry sc i with
        | (c, true) => (c.setStatus sc i .armed, some i)
        | (c, false) => Card.armPass (c.setStatus sc i .refused) sc n
      else Card.armPass (c.setStatus sc i .passed) sc n

/-- An arming pass over the entries not yet looked at. -/
def Card.armNext (c : Card) (sc : Idx4) : Card × Option Nat := c.armPass sc ((c.scr sc).seq.list.length + 1)

/-- The successor pass (R26): the entry it arms becomes the armed entry, and successor settled is set. -/
def Card.successorPass (c : Card) (sc : Idx4) : Card :=
  match c.armNext sc with
  | (c, armed) => c.modSeq sc (fun q => { q with armed := armed, settled := true })

/-- The successor pass where it is due: the current entry is a MARK or has 96 frames or fewer left (R26). -/
def Card.passIfDue (c : Card) (sc : Idx4) : Card :=
  let q := (c.scr sc).seq
  if q.current.isSome ∧ q.settled = false ∧ (q.atMark ∨ q.framesLeft ≤ Config.successorFrames) then c.successorPass sc
  else c

/-- An ARMED entry that has not started is dropped (R28): its record and reservation go, it becomes PASSED, and its
references are released. -/
def Card.dropUnstarted (c : Card) (sc : Idx4) (i : Nat) : Card :=
  let permit := c.permitOfEntry sc i
  (((c.removeRecord sc i).release permit).setStatus sc i .passed).releaseRefs sc i

/-- The armed entry, if there is one, is dropped with its feeds (R28, R52). -/
def Card.dropArmed (c : Card) (sc : Idx4) : Card :=
  match (c.scr sc).seq.armed with
  | none => c
  | some j =>
    (c.dropUnstarted sc j).modScr sc (fun x => { x with armedFeeds := none, seq := { x.seq with armed := none } })

/-! ## Ending an entry (R34, R35) -/

/-- ENTRY_ENDED raised (R34); for a TITLE the detail also says whether the entry was credited. -/
def Card.entryEnded (c : Card) (sc : Idx4) (i : Nat) (cause : EndCause) (credited : Option Bool) : Card :=
  c.raise (.screen sc) .entryEnded
    ([(1, i), (1, cause.code)] ++ match credited with | none => [] | some b => [(1, flagCode b)])

/-- What the end of a started entry means for its record, its reservation and the notices (R34). -/
def Card.closeEntry (c : Card) (sc : Idx4) (i : Nat) (cause : EndCause) : Card :=
  match (c.scr sc).seq.list[i]? with
  | some { kind := .title _, permit := permit, .. } =>
    let credited := c.playCredited sc
    let c := c.closeRecord sc i cause
    let c := if credited then c.endAfterCredit permit else c.release permit
    c.entryEnded sc i cause (some credited)
  | some { kind := .interval _, .. } => c.entryEnded sc i cause none
  | _ => c

/-- What an ended entry leaves behind: it is PASSED, its references, cues, feeds and text keys are gone, and the flags
of R34 are clear; whether a fault hold was due at this boundary is kept to its end (R39). -/
def Card.clearEntry (c : Card) (sc : Idx4) (i : Nat) : Card :=
  (((c.setStatus sc i .passed).releaseRefs sc i).releaseCues sc).modScr sc (fun x =>
    { x with
      currentFeeds := none
      textKeys := []
      seq := { x.seq with
        inProgress := false, faultHoldDue := false, dueLater := false, starveCount := 0, started := false
        presented := none, dueEnded := x.seq.dueEnded || (x.seq.faultHoldDue && !x.seq.dueLater) } })

/-- The current entry ends with a cause, or is dropped where it had not started (R34, R28). The successor pass runs
first where it has not run (R26). -/
def Card.endCurrent (c : Card) (sc : Idx4) (cause : EndCause) : Card :=
  match (c.scr sc).seq.current with
  | none => c
  | some i =>
    let c := if (c.scr sc).seq.settled then c else c.successorPass sc
    let c := if (c.scr sc).seq.started then c.closeEntry sc i cause else c.dropUnstarted sc i
    (c.reportTallies sc .entryEnd).clearEntry sc i

/-- The REFUSED entries before an entry become PASSED (R26). -/
def passRefused (before : Nat) (list : List Entry) : List Entry :=
  (list.take before).map (fun e => if e.status = .refused then { e with status := .passed } else e) ++ list.drop before

/-- The screen finishes (R26, R29, R42, R44): the armed entry is dropped, the frame in progress discarded, and REFUSED
entries become PASSED. -/
def Card.finishScreen (c : Card) (sc : Idx4) (cause : FinishCause) : Card :=
  let c := c.dropArmed sc
  let c := c.modSeq sc (fun q =>
    { q with inProgress := false, faultHoldDue := false, dueLater := false, starveCount := 0
             list := passRefused q.list.length q.list })
  c.setState sc (.finished cause)

/-- An armed entry becomes the current one (R35): its feeds carry over, and its own successor pass runs where it is
due. -/
def Card.becomeCurrent (c : Card) (sc : Idx4) (j : Nat) : Card :=
  let c := c.modScr sc (fun x =>
    { x with
      currentFeeds := x.armedFeeds
      armedFeeds := none
      textKeys := []
      seq := { x.seq with armed := none, settled := false, started := false, position := some ⟨0, 0⟩
                          list := passRefused j x.seq.list } })
  (c.setCurrent sc (some j)).passIfDue sc

/-- The show moves on from an entry that has ended (R35). -/
def Card.moveOn (c : Card) (sc : Idx4) : Card :=
  let c := if (c.scr sc).seq.settled then c else c.successorPass sc
  match (c.scr sc).seq.armed with
  | some j => c.becomeCurrent sc j
  | none => c.finishScreen sc .complete

/-! ## Completion (R24) -/

/-- What the completion of the frame in progress does to the position. -/
inductive Advance where
  | none
  | within
  | reelEnd (reel : Nat)
  | entryEnd
  deriving DecidableEq, Repr

/-- What completing the frame in progress would do (R24). -/
def Sequencer.advance (q : Sequencer) : Advance :=
  match q.inProgress, q.current, q.position with
  | true, some i, some p =>
    if p.frame + 1 < (q.durations i).getD p.reel 0 then .within
    else if p.reel + 1 < (q.durations i).length then .reelEnd p.reel
    else .entryEnd
  | _, _, _ => .none

/-- The sequencer with the position moved and frame in progress cleared (R24). -/
def Sequencer.advanced (q : Sequencer) : Sequencer :=
  let p := q.position.map (fun p =>
    match q.advance with
    | .none => p
    | .reelEnd r => ⟨r + 1, 0⟩
    | _ => ⟨p.reel, p.frame + 1⟩)
  { q with position := p, inProgress := false }

/-- A reel end as the other blocks see it (R24, R52, R124, R166). -/
def Card.endReel (c : Card) (sc : Idx4) (reel : Nat) : Card :=
  ((c.reportTallies sc (.reelEnd reel)).releaseReelCues sc reel).reelEndFeeds sc (reel + 1)

/-- The completion of the frame in progress, with the reel end or the end of the entry it brings (R24, R35). -/
def Card.complete (c : Card) (sc : Idx4) : Card :=
  match (c.scr sc).seq.advance with
  | .none => c
  | .within => (c.modSeq sc Sequencer.advanced).passIfDue sc
  | .reelEnd r => ((c.modSeq sc Sequencer.advanced).endReel sc r).passIfDue sc
  | .entryEnd => ((c.modSeq sc Sequencer.advanced).endCurrent sc .complete).moveOn sc

/-! ## Presentation (R31 to R33) -/

/-- STARVED raised with the queues that lacked frames (R31, R37). -/
def Card.enterStarve (c : Card) (sc : Idx4) (picture sound : Bool) : Card :=
  let c := (c.setState sc (.starved .starve)).modSeq sc (fun q => { q with starveCount := 0 })
  let q := (c.scr sc).seq
  c.raise (.screen sc) .starved
    [entryField q.current, optField 1 (q.position.map (·.reel)), optField 4 (q.position.map (·.frame)),
     (1, flagCode picture + 2 * flagCode sound)]

/-- A TITLE frame presented (R31): at its first frame the entry starts, its record is OPEN, and the port's counts are 0
(R129). -/
def Card.presentTitle (c : Card) (sc : Idx4) (i : Nat) (t : Title) (p : Position) : Card :=
  let c :=
    if (c.scr sc).seq.started then c
    else
      ((c.openRecord sc i t (c.permitOfEntry sc i)).modSeq sc (fun q => { q with started := true })).modPort sc
        (fun x => { x with delivered := 0, lost := 0, faulted := 0 })
  (c.modSeq sc (fun q =>
    { q with inProgress := true, presented := some ⟨i, p.reel, p.frame, true⟩ })).modPort sc
      (fun x => { x with lastDelivered := false })

/-- The frame at the position looked for in both queues (R31). -/
def Card.playTitle (c : Card) (sc : Idx4) (i : Nat) (t : Title) (p : Position) : Card :=
  let x := c.scr sc
  let picture := headHolds x.pictureQueue i p.reel p.frame
  let sound := headHolds x.soundQueue i p.reel p.frame
  if picture && sound then c.presentTitle sc i t p else c.enterStarve sc (!picture) (!sound)

/-- An INTERVAL frame presented (R32). -/
def Card.playInterval (c : Card) (sc : Idx4) (i : Nat) (p : Position) : Card :=
  c.modSeq sc (fun q =>
    { q with inProgress := true, started := true, presented := some ⟨i, p.reel, p.frame, false⟩ })

/-- A MARK reached (R33). -/
def Card.reachMark (c : Card) (sc : Idx4) (i : Nat) (hold : Bool) : Card :=
  (c.modSeq sc (fun q => { q with started := true })).raise (.screen sc) .markReached [(1, i), (1, flagCode hold)]

/-- A MARK passed (R33): it raises no ENTRY_ENDED, and the armed entry becomes current. -/
def Card.passMark (c : Card) (sc : Idx4) (i : Nat) : Card := (c.setStatus sc i .passed).moveOn sc

/-- The hold kind of a MARK with HOLD_AT_MARK reached at this boundary (R33): FAULT where the entry that ended there had
a fault hold due (R39, log 16). -/
def Sequencer.markHold (q : Sequencer) : HoldKind := if q.dueEnded then .fault else .mark

/-- The current entry handled as a RUNNING screen handles it (R31 to R33); the number bounds the MARK entries passed
within one boundary. -/
def Card.handleRunning (c : Card) (sc : Idx4) : Nat → Card
  | 0 => c
  | n + 1 =>
    let q := (c.scr sc).seq
    match q.current, q.entry, q.position with
    | some i, some e, some p =>
      match e.kind with
      | .title k => match q.titles[k]? with | some t => c.playTitle sc i t p | none => c
      | .interval _ => c.playInterval sc i p
      | .mark hold =>
        if q.started then c
        else
          let c := c.reachMark sc i hold
          if hold then c.setState sc (.held q.markHold)
          else
            let c := c.passMark sc i
            if (c.scr sc).seq.state = .running then Card.handleRunning c sc n else c
    | _, _, _ => c

/-- The current entry handled in RUNNING. -/
def Card.playOn (c : Card) (sc : Idx4) : Card := c.handleRunning sc ((c.scr sc).seq.list.length + 1)

/-- The screen enters RUNNING and its entry is handled at this boundary. -/
def Card.enterRunning (c : Card) (sc : Idx4) : Card := (c.setState sc .running).playOn sc

/-! ## Readiness, recovery, starvation and holds (R29, R37 to R39) -/

/-- The readiness test (R29). -/
def Card.readyTest (c : Card) (sc : Idx4) : Bool :=
  let x := c.scr sc
  match x.seq.current, x.seq.title with
  | some i, some t =>
    let ds := t.reels.map (·.duration)
    let need := min x.seq.settings.preroll (ds.getD 0 0)
    decide (need ≤ runLength ds i x.pictureQueue 0 0) && decide (need ≤ runLength ds i x.soundQueue 0 0)
  | _, _ => true

/-- Whether a queue holds what the recovery test asks of it (R37). -/
def Card.recoveredIn (c : Card) (sc : Idx4) (q : List QueueItem) : Bool :=
  let x := c.scr sc
  match x.seq.current, x.seq.title, x.seq.position with
  | some i, some t, some p =>
    let need := min x.seq.settings.recovery x.seq.framesLeft
    decide (need ≤ runLength (t.reels.map (·.duration)) i q p.reel p.frame)
  | _, _, _ => true

/-- The recovery test (R37); an INTERVAL or MARK meets it at once. -/
def Card.recoveryTest (c : Card) (sc : Idx4) : Bool :=
  c.recoveredIn sc (c.scr sc).pictureQueue && c.recoveredIn sc (c.scr sc).soundQueue

/-- A LOADING screen whose readiness test is met enters READY (R29). -/
def Card.testReadiness (c : Card) (sc : Idx4) : Card :=
  if (c.scr sc).seq.state = .loading ∧ c.readyTest sc then c.setState sc .ready else c

/-- Start-when-ready due at a boundary in READY (R29). -/
def Card.dueStart (c : Card) (sc : Idx4) : Card :=
  let x := c.scr sc
  if x.port.link = .up ∧ c.auto.latch = false then c.enterRunning sc
  else c.modSeq sc (fun q => { q with startWhenReady := false })

/-- RUNNING or STARVED by the recovery test (R37, R40). -/
def Card.runOrStarve (c : Card) (sc : Idx4) : Card :=
  if c.recoveryTest sc then c.enterRunning sc
  else
    c.enterStarve sc (!c.recoveredIn sc (c.scr sc).pictureQueue) (!c.recoveredIn sc (c.scr sc).soundQueue)

/-- The starvation limit in boundaries (R38). -/
def Sequencer.starveLimit (q : Sequencer) : Nat :=
  q.settings.starvation * (match q.title with | some t => t.rate | none => 24)

/-- The starvation limit runs out (R38). -/
def Card.starvedOut (c : Card) (sc : Idx4) : Card := (c.endCurrent sc .starvedOut).finishScreen sc .starvedOut

/-- A boundary in STARVED whose recovery test is not met (R38). -/
def Card.countStarve (c : Card) (sc : Idx4) : Card :=
  let q := (c.scr sc).seq
  if q.state = .starved .starve then
    let c := c.modSeq sc (fun q => { q with starveCount := q.starveCount + 1 })
    if q.starveLimit ≤ q.starveCount + 1 then c.starvedOut sc else c
  else c

/-- A boundary in STARVED (R38). -/
def Card.recoverOrCount (c : Card) (sc : Idx4) : Card :=
  if c.recoveryTest sc then c.enterRunning sc else c.countStarve sc

/-- A held screen enters HELD with a hold kind (R36, R39): the starvation count is cleared. -/
def Card.enterHeld (c : Card) (sc : Idx4) (k : HoldKind) : Card :=
  (c.setState sc (.held k)).modSeq sc (fun q => { q with starveCount := 0 })

/-- Whether the current entry is a MARK not yet reached, with its HOLD_AT_MARK flag. -/
def Sequencer.freshMark (q : Sequencer) : Option (Nat × Bool) :=
  match q.current, q.entry with
  | some i, some { kind := .mark hold, .. } => if q.started then none else some (i, hold)
  | _, _ => none

/-- Fault hold due at a boundary in RUNNING (R39): a MARK reached there is reached first. -/
def Card.faultHold (c : Card) (sc : Idx4) : Card :=
  let c := match (c.scr sc).seq.freshMark with
    | none => c
    | some (i, hold) => if hold then c.reachMark sc i true else (c.reachMark sc i false).passMark sc i
  if (c.scr sc).seq.state = .running then c.enterHeld sc .fault else c

/-- A MARK reached at the boundary at which a HOLD was taken (R47); the number bounds the MARK entries passed. DESIGN
CHOICE (log 63): with HOLD_AT_MARK the screen, HELD(OPERATOR) by the HOLD, becomes HELD(MARK) here, so that two changes
raise STATE_CHANGE in either order. -/
def Card.reachHeld (c : Card) (sc : Idx4) : Nat → Card
  | 0 => c
  | n + 1 =>
    match (c.scr sc).seq.state, (c.scr sc).seq.freshMark with
    | .held .operator, some (i, true) => (c.reachMark sc i true).setState sc (.held (c.scr sc).seq.markHold)
    | .held .operator, some (i, false) => Card.reachHeld ((c.reachMark sc i false).passMark sc i) sc n
    | .held .fault, some (i, true) => c.reachMark sc i true
    | .held .fault, some (i, false) => Card.reachHeld ((c.reachMark sc i false).passMark sc i) sc n
    | _, _ => c

/-! ## The sequencer's work at a boundary -/

/-- The sequencer's work at a boundary at which no request has done it (R24, R29, R31 to R33, R38, R39). The completion
is made first; an entry end clears a fault hold that was due, which then is seen at a MARK reached alone (log 16). -/
def Card.sequencerWork (c : Card) (sc : Idx4) : Card :=
  let c := c.complete sc
  let q := (c.scr sc).seq
  let due := q.faultHoldDue && !q.dueLater
  let c := if due then c.modSeq sc (fun q => { q with faultHoldDue := false }) else c
  match q.state with
  | .loading => c.testReadiness sc
  | .ready => if q.startWhenReady then c.dueStart sc else c
  | .running => if due then c.faultHold sc else c.playOn sc
  | .starved _ => if due then c.enterHeld sc .fault else c.recoverOrCount sc
  | .held _ => if q.holdTaken then c.reachHeld sc (q.list.length + 1) else c
  | _ => c

/-- The sequencer at a boundary: its work is done once, by the request taken there or here. -/
def Card.sequencerStep (c : Card) (sc : Idx4) : Card :=
  if (c.scr sc).seq.handled then c
  else Card.sequencerWork (c.modSeq sc (fun q => { q with presented := none })) sc

/-- The frame rate in force (R23). -/
def Sequencer.frameRate (q : Sequencer) : Nat :=
  match q.state with
  | .dark | .finished _ => 24
  | _ => match q.title with | some t => t.rate | none => 24

/-! ## Finishing and clearing (R42 to R46) -/

/-- A screen finished between boundaries, by the emergency latch or the engine stop (R44, R45): a frame in flight is
settled first (R136). -/
def Card.finishNow (c : Card) (sc : Idx4) (cause : FinishCause) (ended : EndCause) : Card :=
  match (c.scr sc).seq.state with
  | .dark => c
  | .finished _ => (c.modPort sc PicturePort.interrupt).setState sc (.finished cause)
  | _ => ((c.modPort sc PicturePort.interrupt).endCurrent sc ended).finishScreen sc cause

/-- The mark of the latch on a LOAD in progress (R18). -/
def Sequencer.latchLoad (q : Sequencer) : Sequencer :=
  { q with load := q.load.map (fun l => { l with latched := true }) }

/-- The successor pass taken one list entry further (R26): it is over where an entry is armed or none is left. -/
def Card.successorLook (c : Card) (sc : Idx4) : Card :=
  match c.armPass sc 1 with
  | (c, some i) => c.modSeq sc (fun q => { q with armed := some i, settled := true })
  | (c, none) =>
    c.modSeq sc (fun q => if q.list.length ≤ q.nextLook then { q with armed := none, settled := true } else q)

/-- Whether a screen that is to finish has a successor pass still to run (R26, R34). -/
def Sequencer.passDue (q : Sequencer) : Bool :=
  match q.state with
  | .dark | .finished _ => false
  | _ => q.load.isNone && q.current.isSome && !q.settled

/-- One turn of a screen where all finish together: an entry of its successor pass is looked at, or, that pass being
over, the screen finishes. -/
def Card.finishTurn (finish : Card → Idx4 → Card) (c : Card) (sc : Idx4) : Card :=
  if (c.scr sc).seq.passDue then c.successorLook sc else finish c sc

/-- All four screens finished. Their armings and releases fall together, and R83 lets any be taken first: the turns come
in the order that the command gives, and what they leave is finished screen by screen. DESIGN CHOICE (log 48): one turn
arms a single entry, or makes the whole of a screen's end with its releases. -/
def Card.finishAll (c : Card) (turns : List Idx4) (finish : Card → Idx4 → Card) : Card :=
  Idx4.all.foldl finish (turns.foldl (Card.finishTurn finish) c)

/-- A screen finished by the latch (R44); one whose LOAD is in progress finishes when the LOAD has completed (R18). -/
def Card.emergencyEnd (c : Card) (sc : Idx4) : Card :=
  if (c.scr sc).seq.load.isSome then c.modSeq sc Sequencer.latchLoad else c.finishNow sc .emergency .emergency

/-- The four screens finished by the latch (R44). -/
def Card.emergencyFinish (c : Card) (turns : List Idx4) : Card := c.finishAll turns Card.emergencyEnd

/-- A screen finished by the engine's entry into STOPPING (R45); a LOAD in progress is answered REFUSED_STATE (R18). -/
def Card.stopEnd (c : Card) (sc : Idx4) : Card :=
  let c := match (c.scr sc).seq.load with
    | none => c
    | some l => (c.modSeq sc (fun q => { q with load := none })).answer (.screen sc) l.number .refusedState
  c.finishNow sc .engineStop .engineStop

/-- The four screens finished by the engine's entry into STOPPING (R45). -/
def Card.stopFinish (c : Card) (turns : List Idx4) : Card := c.finishAll turns Card.stopEnd

/-- What DARK leaves of a screen (R21, R92, R129, R164): the settings copy is kept, staged units, queues and tallies are
emptied. -/
def Screen.darken (x : Screen) : Screen :=
  { x with
    pictureQueue := []
    soundQueue := []
    currentFeeds := none
    armedFeeds := none
    textKeys := []
    sound := { x.sound with staged := none }
    port := { x.port with staged := none }
    tallies := List.replicate 17 0
    seq := { settings := x.seq.settings } }

/-- The screen enters DARK by UNLOAD (R43), raising STATE_CHANGE for the state and for the current entry (R22). -/
def Card.unloadScreen (c : Card) (sc : Idx4) : Card :=
  let old := (c.scr sc).seq
  let c := c.modScr sc (fun x =>
    let y := x.darken
    { y with seq := { y.seq with state := old.state, current := old.current, load := old.load } })
  (c.setState sc .dark).setCurrent sc none

end Sys2Proof.Machine
end

