-- ==== Sys2Proof/Machine/Scanner.lean ====
section
/-! DEFINITION. The booth scanner (chapter 11): seeding, the end of notice writes, the reminder of seen counts, the
position report, and what every step of the blocks ends with. -/
namespace Sys2Proof.Machine

/-! ## Seeding (R49, R156, R172) -/

/-- All notice kinds. -/
def noticeKinds : List NoticeKind :=
  [.stateChange, .entryRefused, .markReached, .keyWanted, .cuePassed, .fault, .faultTally, .starved, .linkChange,
   .credited, .entryEnded, .areaFault, .inputChange, .emergency, .logPageFull, .logWaiting, .memoryFault, .recordLost,
   .slotAnswered, .permitChange, .clockChange]

/-- The six sheets in the order R171 names them. -/
def allSheets : List Sheet := [.booth, .key, .screen .i0, .screen .i1, .screen .i2, .screen .i3]

/-- The sheets that are scanned. -/
def Header.scannedSheets (h : Header) : List Sheet := allSheets.filter h.scans

/-- A read of a sheet: the access, its MEMORY_FAULT item and its address. -/
structure SheetRead where
  access : BusAccess
  item : FaultItem
  addr : Nat
  deriving DecidableEq, Repr

/-- A notice place seeded: the scanner's count continues from the raised count in memory, and held raisings are written
(R172). -/
def State.seedPlace (h : Header) (sh : Sheet) (s : State) (kind : NoticeKind) : State :=
  let x := s.scan.get sh
  let p := x.place kind
  let n := BitVec.ofNat 32 (s.mem.field (h.noticeAddr sh kind + 124) 4)
  let s := { s with scan := s.scan.set sh (x.setPlace kind { p with count := n + p.count }) }
  if p.count = 0 then s else s.beginNotice h sh kind

/-- The three seeding reads of a sheet in the order R172 lists them: access, item and address (log 33). -/
def Header.seedReads (h : Header) (sh : Sheet) : List SheetRead :=
  let y := sheetLayout sh
  let a := h.sheetAddr sh
  [⟨.seedAnswer sh, .answerWord, a + y.answer⟩, ⟨.seedReport sh, .report, a + y.report + y.reportLength - 4⟩,
   ⟨.seedNotices sh, .noticePlace, a + y.board⟩]

/-- The tries of a sheet's seeding reads are forgotten. -/
def Card.seedingDone (c : Card) (h : Header) (sh : Sheet) : Card :=
  c.busForget (fun a => (h.seedReads sh).any (fun r => r.access == a))

/-- A sheet seeded, or left seed pending with MEMORY_FAULT by the first of its reads that fails (R172). -/
def State.seedSheet (h : Header) (s : State) (sh : Sheet) : State :=
  let y := sheetLayout sh
  let a := h.sheetAddr sh
  match (h.seedReads sh).find? (fun r => s.card.busFailed r.access) with
  | some r => { s with card := (s.card.seedingDone h sh).memoryFault false sh.place r.item r.addr }
  | none =>
    let x := { s.scan.get sh with
      seeded := true
      lastTaken := BitVec.ofNat 32 (s.mem.field (a + y.answer + 28) 4)
      reportSeq := BitVec.ofNat 32 (s.mem.field (a + y.report + y.reportLength - 4) 4) }
    let s := { s with card := s.card.seedingDone h sh, scan := s.scan.set sh x }
    (noticeKinds.filter (fun k => k.onSheet sh)).foldl (State.seedPlace h sh) s

/-- Every scanned sheet that is not seeded is seeded (R172). -/
def State.seedSheets (s : State) (h : Header) : State :=
  (h.scannedSheets.filter (fun sh => !(s.scan.get sh).seeded)).foldl (State.seedSheet h) s

/-- A slot's answered generation seeded from its answer word (R49). -/
def Card.seedSlot (m : Mem) (h : Header) (c : Card) (slot : Nat) : Card :=
  let access := BusAccess.seedSlot (Fin.ofNat 256 slot)
  let a := h.slotAddr slot + 8
  if c.busFailed access then
    ((c.busDone access).modSlot slot (fun x => { x with seedPending := true })).memoryFault false poolPlace
      .slotAnswerWord a
  else
    (c.busDone access).modSlot slot (fun x =>
      { x with answered := some (BitVec.ofNat 32 (m.field (a + 4) 4)), seedPending := false })

/-- A page record seeded from its answer word (R156). A failed read names the log page as the place (DESIGN CHOICE, log
69). -/
def Card.seedPage (m : Mem) (h : Header) (c : Card) (page : Nat) : Card :=
  let access := BusAccess.seedPage (Fin.ofNat 8 page)
  let a := h.pagePartAddr page
  if c.busFailed access then
    ((c.busDone access).modCounter (fun k => k.modPage page (fun p => { p with seedPending := true }))).memoryFault
      false logPlace .answerWord a
  else
    (c.busDone access).modCounter (fun k => k.modPage page (fun p =>
      { p with answered := some (BitVec.ofNat 32 (m.field (a + 4) 4)), seedPending := false }))

/-- The slots or pages whose seeding is pending. -/
def pendingSeeds (flags : List Bool) : List Nat := (List.range flags.length).filter (fun i => flags.getD i false)

/-- The seeding of slots and pages that failed earlier is tried again (R49, R156). -/
def Card.retrySeeds (c : Card) (m : Mem) (h : Header) : Card :=
  let c := (pendingSeeds (c.slots.map (·.seedPending))).foldl (Card.seedSlot m h) c
  (pendingSeeds (c.counter.pages.map (·.seedPending))).foldl (Card.seedPage m h) c

/-! ## Notices and seen counts (R181, R183) -/

/-- The write of a notice place ends (R181): the raised count is written and the cause set; a place raised on meanwhile
is written again. -/
def State.endNotice (s : State) (h : Header) (sh : Sheet) (kind : NoticeKind) : State :=
  let x := s.scan.get sh
  let p := x.place kind
  match p.writing with
  | none => s
  | some n =>
    let s := (s.store (h.noticeAddr sh kind + 124) (leBytes n.toNat 4)).setCause sh
    if p.newer then s.beginNotice h sh kind
    else { s with scan := s.scan.set sh (x.setPlace kind { p with writing := none }) }

/-- The write of a notice place fails after its retries (R183): MEMORY_FAULT is raised, but for the MEMORY_FAULT place
itself, which is written again at the next raising or tick. DESIGN CHOICE (log 76): the opening copy and the detail of
the dropped write stand in booth memory, and its raised count does not. -/
def State.failNotice (s : State) (h : Header) (sh : Sheet) (kind : NoticeKind) : State :=
  let x := s.scan.get sh
  let p := x.place kind
  match p.writing with
  | none => s
  | some _ =>
    let own := kind == .memoryFault
    let s := { s with scan := s.scan.set sh (x.setPlace kind { p with writing := none, retry := own }) }
    let s := if p.newer then s.beginNotice h sh kind else s
    if own then s
    else { s with card := s.card.memoryFault true sh.place .noticePlace (h.noticeAddr sh kind) }

/-- The MEMORY_FAULT place written again at a tick after a failed write (R183). -/
def State.retryNotice (s : State) (h : Header) : State :=
  if ((s.scan.get .booth).place .memoryFault).retry then s.beginNotice h .booth .memoryFault else s

/-- Whether a sheet has an outstanding notice (R181). -/
def State.outstanding (s : State) (h : Header) (sh : Sheet) : Bool :=
  noticeKinds.any (fun k =>
    k.onSheet sh &&
      decide (((s.scan.get sh).place k).count ≠
        BitVec.ofNat 32 (s.mem.field (h.sheetAddr sh + (sheetLayout sh).seen + 4 * k.place) 4)))

/-- The reminder of one sheet at a tick (R177, R181). -/
def State.remind (h : Header) (s : State) (sh : Sheet) : State :=
  let access := BusAccess.seenCounts sh
  let a := h.sheetAddr sh + (sheetLayout sh).seen
  if !(s.scan.get sh).seeded then s
  else if s.card.busFailed access then
    { s with card := (s.card.busDone access).memoryFault false sh.place .seenCounts a }
  else
    let s := { s with card := s.card.busDone access }
    if s.outstanding h sh then s.setCause sh else s

/-- The reminders of every scanned sheet. -/
def State.remindAll (s : State) (h : Header) : State := h.scannedSheets.foldl (State.remind h) s

/-- No notice write is in flight and none is due on the seeded sheets (R173). -/
def Scanner.quiet (x : Scanner) : Bool :=
  allSheets.all (fun sh =>
    let y := x.get sh
    !y.seeded || y.places.all (fun p => p.2.writing.isNone && !p.2.newer))

/-! ## The position report (R22, R180) -/

/-- The fields of a screen's position report, in the order of R180. -/
def Card.positionFields (c : Card) (sc : Idx4) : List (Nat × Nat) :=
  let x := c.scr sc
  let q := x.seq
  let play := c.counter.plays.get sc
  [(1, q.state.codes.1), (1, q.state.codes.2), entryField q.current, optField 1 (q.position.map (·.reel)),
   optField 4 (q.position.map (·.frame)), (4, (q.loadNumber.map (·.toNat)).getD 0), (2, x.sound.master),
   (1, (c.auto.outputs.get sc).toNat), (4, queueDepth x.pictureQueue), (4, queueDepth x.soundQueue),
   (2, c.pool.heldBy sc), (1, x.port.link.code), optField 4 (play.map (·.credited)), optField 4 (play.map (·.needed))]

/-- The position report handed to the scanner. -/
def Card.positionReport (c : Card) (sc : Idx4) : Card := c.publish (.report (.screen sc) (c.positionFields sc) [])

/-! ## The request word (R177, R178) -/

/-- A scan of a sheet whose request word read has failed after its retries: nothing is taken, and MEMORY_FAULT is
raised. -/
def Card.failScan (c : Card) (h : Header) (sh : Sheet) : Card :=
  let access := BusAccess.requestWord sh
  if c.busFailed access then (c.busDone access).memoryFault false sh.place .requestWord (h.sheetAddr sh) else c

/-- The reads of a sheet's scans (R177). -/
def isScanRead (sh : Sheet) : BusAccess → Bool
  | .requestWord x => x == sh
  | .settingsBlock sc => sh == .screen sc
  | .showList sc => sh == .screen sc
  | _ => false

/-- The header, where a sheet is seeded and scanned at its events (R177). -/
def State.scanHeader (s : State) (sh : Sheet) : Option Header :=
  match s.card.header with
  | none => none
  | some h => if s.card.active && h.scans sh && (s.scan.get sh).seeded then some h else none

/-- The mark of the scan at the boundary or tick in hand written (R25, R74, R146). -/
def State.setTaken (s : State) (sh : Sheet) (b : Bool) : State :=
  { s with scan := s.scan.set sh { s.scan.get sh with taken := b } }

/-- The scan of a sheet at the boundary or tick in hand is over (R177, log 2): one that took no request, since its
request word could not be read, is failed; the next scan has tries of its own (R183) and takes a request again. No
screen sheet is scanned while a LOAD of the screen is in progress (R25). -/
def State.endScan (s : State) (sh : Sheet) : State :=
  let loading := match sh with
    | .screen sc => (s.card.scr sc).seq.load.isSome
    | _ => false
  let c := match s.scanHeader sh with
    | some h => if loading then s.card else s.card.failScan h sh
    | none => s.card
  State.setTaken { s with card := c.busForget (isScanRead sh) } sh false

/-! ## The end of a step -/

/-- The search for a page after a record has closed or a page has ended (R157). -/
def Card.seekIfDue (c : Card) (m : Mem) : Card :=
  if c.seekDue then { c.seekPage m with seekDue := false } else c

/-- What every step of the blocks ends with: the fader targets are settled (R104), a page is sought where it is due
(R157), and what the blocks handed the scanner is published. -/
def State.finish (s : State) : State :=
  State.publishAll { s with card := s.card.settleTargets.seekIfDue s.mem }

/-- A step of the blocks that reads no memory. -/
def State.act (s : State) (f : Card → Card) : State := State.finish { s with card := f s.card }

/-- The host's writes between commands reach memory first (log 3). -/
def State.hostWrites (s : State) (w : HostWrites) : State := { s with mem := s.mem.hostStore w }

end Sys2Proof.Machine
end

