-- ==== Sys2Proof/Machine/Engine.lean ====
section
/-! DEFINITION. The engine states (R170 to R174), power (R90) and the booth tick (R176). -/
namespace Sys2Proof.Machine

/-- The engine state written. -/
def Card.setEngine (c : Card) (e : EngineState) : Card := { c with engine := e }

/-- The window changed. -/
def State.modWindow (s : State) (f : Window → Window) : State := { s with window := f s.window }

/-- The attention enables that a CONTROL write leaves (R169). -/
def Window.enablesAfter (w : Window) (enables : Option (BitVec 6)) : BitVec 6 := enables.getD w.enables

/-- The start fault code and detail written (R169). -/
def Window.setFault (w : Window) (f : StartFault) : Window := { w with faultCode := f.code, faultDetail := f.detail }

/-! ## Starting (R170 to R172) -/

/-- The bytes of the booth header at BOOTH BASE. -/
def State.headerBytes (s : State) : List Byte := s.mem.readBytes s.window.boothBase.toNat Config.headerLength

/-- The engine enters STARTING: the pattern copies are replaced from the booth header (R138, log 12). No try of an
earlier start's reads counts against this one (R183). -/
def State.enterStarting (s : State) : State :=
  let bs := s.headerBytes
  { s with card := { s.card with
      engine := .starting, bus := [], auto := s.card.auto.copyPatterns (safePatternsOf bs) (emergencyPatternsOf bs) } }

/-- The EMERGENCY that was owed is raised with every screen DARK (R144). -/
def Card.raiseEmergency (c : Card) : Card :=
  match c.auto.owed with
  | none => c
  | some o =>
    (c.modAuto (fun a => { a with owed := none })).raise .booth .emergency (emergencyFields o.time (Quad.const .dark))

/-- The raisings that wait for the first RUNNING are made once their sheet is seeded (R172): PERMIT_CHANGE on the key
sheet (R90, R91), RECORD_LOST and EMERGENCY on the booth sheet (R144, R162). Until then they stay owed. -/
def State.raiseOwed (s : State) : State :=
  let c := if (s.scan.get .key).seeded then s.card.raiseOwedPermits else s.card
  { s with card := if (s.scan.get .booth).seeded then c.raiseOwedLost.raiseEmergency else c }

/-- The engine enters RUNNING: the header is copied, the sheets, slots and pages are seeded, and what was owed is raised
(R171, R172, R138). -/
def State.enterRunning (s : State) (h : Header) : State :=
  let c := s.card.noteBooth { s.card with
    engine := .running
    header := some h
    auto := { s.card.auto with inputs := 0 }
    slots := List.replicate h.slotCount {}
    directory := []
    fetch := none
    bus := (s.card.busDone .boothHeader).bus }
  let s := State.seedSheets { s with card := c, scan := {} } h
  let c := (List.range h.slotCount).foldl (Card.seedSlot s.mem h) s.card
  let c := (List.range Config.logPages).foldl (Card.seedPage s.mem h) c
  State.raiseOwed { s with card := c }

/-- The start fault of R171 taken; the tries of the start's reads are forgotten. -/
def State.enterFaulted (s : State) (f : StartFault) : State :=
  { s with card := { s.card.setEngine .faulted with bus := [] }, window := s.window.setFault f }

/-- The header checks made and their outcome (R171). -/
def State.startChecks (s : State) : State :=
  match startCheck s.headerBytes with
  | some f => s.enterFaulted f
  | none => (s.enterRunning (headerOf s.headerBytes)).finish

/-- A CONTROL write that leaves the run request 1 (R170). -/
def State.setRun (s : State) (enables : Option (BitVec 6)) : State :=
  let keeps := decide (s.window.enablesAfter enables = s.window.enables)
  let t := s.modWindow (fun w => { w with runRequest := true, enables := w.enablesAfter enables })
  match s.card.engine with
  | .off => t.enterStarting
  | .faulted => if keeps then (t.modWindow (fun w => w.setFault ⟨0, 0⟩)).enterStarting else t
  | _ => t

/-! ## Stopping (R173) -/

/-- The engine enters STOPPING: every screen finishes and the outputs take their rest pattern (R45, R139). -/
def State.enterStopping (s : State) (turns : List Idx4) : State :=
  State.act s (fun c => ((c.setEngine .stopping).modAuto Automation.restPattern).stopFinish turns)

/-- A CONTROL write that leaves the run request 0 (R170). -/
def State.clearRun (s : State) (write : StopWrite) : State :=
  let t := s.modWindow (fun w => { w with runRequest := false, enables := w.enablesAfter write.enables })
  match s.card.engine with
  | .starting => { t with card := { t.card.setEngine .off with bus := [] } }
  | .faulted => { t.modWindow (fun w => w.setFault ⟨0, 0⟩) with card := t.card.setEngine .off }
  | .running => t.enterStopping write.turns
  | _ => t

/-- A screen when the engine enters OFF: DARK without a notice (R45), the renderer, port and caption port as R92, R129
and R128 say. -/
def Screen.enterOff (x : Screen) : Screen :=
  let y := x.darken
  { y with sound := y.sound.enterOff, port := y.port.enterOff }

/-- The engine enters OFF at the end of a stop (R70, R92, R138, R148, R173). -/
def State.enterOff (s : State) : State :=
  let c := s.card
  { s with
    scan := {}
    card := c.noteBooth { c with
      engine := .off
      screens := c.screens.map Screen.enterOff
      slots := []
      directory := []
      fetch := none
      auto := { c.auto with inputs := 0 }
      counter := c.counter.enterOff
      bus := [] } }

/-- The four parts of the stop are complete (R173). -/
def State.stopDone (s : State) : Bool :=
  s.card.engine == .stopping && s.card.intakeStopDone && s.card.counter.stopDone && s.scan.quiet

/-- The stop is complete: OFF, then at once STARTING if the run request is 1 (R170, R173). -/
def State.completeStop (s : State) : State :=
  if s.window.runRequest then s.enterOff.enterStarting else s.enterOff

/-! ## Engine reset and power (R90, R91, R161, R162, R174) -/

/-- A screen after an engine reset (R21, R92, R118, R127, R129, R164): everything but the sample count of its link. -/
def Screen.engineReset (x : Screen) : Screen := { sound := x.sound.engineReset }

/-- The card after an engine reset (R174): what the blocks' engine-reset columns keep is kept. -/
def Card.engineReset (c : Card) : Card :=
  let settled := eachPlace zeroPlace c.permits.table
  c.noteBooth
  { header := c.header
    screens := c.screens.map Screen.engineReset
    permits := { c.permits with table := settled.1 }
    auto := { c.auto.restPattern with inputs := 0 }
    counter := c.counter.engineReset c.boothTime
    owedPermits := c.owedPermits ++ settled.2
    owedLost := c.owedLost
    permitDue := c.permitDue || decide (reportedTable settled.1 ≠ reportedTable c.permits.table)
    boothDue := c.boothDue }

/-- An engine reset (R169, R174): the run request, fault code and detail and ATTENTION are cleared; the enables and
BOOTH BASE are kept. -/
def State.engineReset (s : State) : State :=
  { s with
    window := { s.window with runRequest := false, faultCode := 0, faultDetail := 0, attention := 0 }
    scan := {}
    card := s.card.engineReset }

/-- The card after power-on with the standby supply held (R90, R162): every record check is verified, of the permits and
showing records as a disturbance left them. -/
def Card.powerOnHeld (c : Card) (permits : FMap Permit) (records : FMap ShowingRecord) : Card :=
  let examined := eachPlace examinePlace (disturbTable permits c.permits.table)
  let counter := { c.counter with holding := disturbHolding records c.counter.holding }.powerOn
  c.noteBooth
  { permits := { c.permits with table := examined.1 }
    counter := counter.1
    owedPermits := examined.2
    owedLost := if counter.2 = 0 then none else some counter.2
    permitDue := c.permitDue || decide (reportedTable examined.1 ≠ reportedTable c.permits.table)
    boothDue := c.boothDue }

/-- The card after power-on with nothing held by the standby supply (R90): the values of reset. -/
def Card.powerOnEmpty (c : Card) : Card := c.noteBooth { State.reset.card with boothDue := c.boothDue }

/-- Power-on (R90): every register and block takes its power-on value, and retained memory is examined. The queue of
commands and booth memory are the outside's. -/
def State.powerOn (s : State) (held : Bool) (permits : FMap Permit) (records : FMap ShowingRecord) : State :=
  { State.reset with
    pending := s.pending
    mem := s.mem
    card := if held then s.card.powerOnHeld permits records else s.card.powerOnEmpty }

/-- The card without main power: only what the standby supply holds stays (R71, R79, R148, log 26), and the reports that
are due stay due (R73, R180). -/
def Card.losePower (c : Card) : Card :=
  c.noteBooth
  { permits := c.permits
    counter := { holding := c.counter.holding, nextNumber := c.counter.nextNumber }
    permitDue := c.permitDue
    boothDue := c.boothDue }

/-- Main power is lost: the card stops working. -/
def State.losePower (s : State) : State :=
  { State.reset with pending := s.pending, mem := s.mem, powered := false, card := s.card.losePower }

/-! ## The booth tick (R50, R53, R143, R144, R156, R172, R176, R177, R180, R181) -/

/-- The states of the four screens. -/
def Card.screenStates (c : Card) : Quad ScreenState := c.screens.map (fun x => x.seq.state)

/-- The latch is set (R144): the emergency pattern, the finish of every screen, and EMERGENCY raised or owed. -/
def Card.latchEmergency (c : Card) (turns : List Idx4) : Card :=
  let states := c.screenStates
  let time := c.boothTime
  let c := (c.modAuto Automation.setLatch).emergencyFinish turns
  if c.active then
    (c.modAuto (fun a => { a with owed := none })).raise .booth .emergency (emergencyFields time states)
  else c.modAuto (fun a => { a with owed := some ⟨time⟩ })

/-- The emergency input sampled, in every engine state (R144). -/
def Card.sampleEmergency (c : Card) (e : EmergencySample) : Card :=
  let c := c.modAuto (fun a => { a with emergencySample := e.active })
  if e.active && !c.auto.latch then c.latchEmergency e.turns else c

/-- The blocks' work at a tick once the seeds have been tried again: the directory, judging, the log pages and the
reports. -/
def Card.tickWork (c : Card) (m : Mem) (h : Header) (boothSeeded : Bool) : Card :=
  let c := ((c.retrySeeds m h).refreshDirectory m h).judgeAll
  let c := if boothSeeded then c.readLogTable m h else c
  ({ c with seekDue := true }.permitReport).boothReport

/-- The reads that a booth tick makes (R172, R177, R157). -/
def isTickRead : BusAccess → Bool
  | .seedAnswer _ | .seedReport _ | .seedNotices _ | .seedSlot _ | .seedPage _ | .seenCounts _ | .logTable
  | .offerRead _ | .headerRead _ | .fillRead _ => true
  | _ => false

/-- A booth tick's work while the engine works (R176): the scans of the booth and key sheets are over, pending seeds are
tried again, and the blocks act. The next tick's reads have tries of their own (R183). -/
def State.activeTick (s : State) (h : Header) (inputs : BitVec 8) : State :=
  let s := (s.endScan .booth).endScan .key
  let s := { s with card := s.card.sampleInputs inputs }
  let s := (((s.seedSheets h).raiseOwed).remindAll h).retryNotice h
  let s := State.finish { s with card := s.card.tickWork s.mem h (s.scan.get .booth).seeded }
  { s with card := s.card.busForget isTickRead }

/-- A booth tick (R176). -/
def State.boothTick (s : State) (inputs : BitVec 8) (emergency : EmergencySample) : State :=
  let s := { s with card := s.card.sampleEmergency emergency }
  match s.card.header with
  | none => s.finish
  | some h =>
    if s.card.active then s.activeTick h inputs else s.finish

end Sys2Proof.Machine
end

