-- ==== Sys2Proof/Machine/Load.lean ====
section
/-! DEFINITION. LOAD from its taking to its answer (R8 to R10, R15 to R20). -/
namespace Sys2Proof.Machine

/-! ## The checks of an entry (R8 to R10) -/

/-- An entry's condition (R9). -/
def RawEntry.conditionOf (e : RawEntry) : Except Check Condition :=
  match e.condition with
  | 1 => .ok .always
  | 2 => if e.input ≤ 7 then .ok (.inputSet e.input) else .error .condition
  | 3 => if e.input ≤ 7 then .ok (.inputClear e.input) else .error .condition
  | _ => .error .condition

/-- The checks on an entry's own fields before its title is read (R8, R9): kind, condition, length, number of cues. -/
def RawEntry.checkFields (e : RawEntry) : Except Check Condition :=
  if e.kind < 1 ∨ 3 < e.kind then .error .entryKind
  else
    match e.conditionOf with
    | .error k => .error k
    | .ok k =>
      if e.kind = 2 ∧ (e.seconds < 1 ∨ 3600 < e.seconds) then .error .intervalLength
      else if 8 < e.cueCount then .error .entryCue
      else if e.kind = 3 ∧ e.cueCount ≠ 0 then .error .entryCue
      else .ok k

/-- Whether a cue's action passes the check at LOAD (R10). -/
def RawCue.actionOk (k : RawCue) : Bool :=
  match k.code with
  | 1 | 2 => decide (k.arg1 ≤ 7)
  | 3 => decide (k.arg1 ≤ 7 ∧ 1 ≤ k.arg2 ∧ k.arg2 ≤ 255)
  | _ => true

/-- The entry frame a cue's anchor and offset name, if they are in range (R10). -/
def RawCue.entryFrame (k : RawCue) (length : Nat) : Option Nat :=
  match k.anchor with
  | 1 => if k.offset < length then some k.offset else none
  | 2 => if 1 ≤ k.offset ∧ k.offset ≤ length then some (length - k.offset) else none
  | _ => none

/-- A cue resolved to its reel and reel frame (R7, R10). -/
def RawCue.resolve (k : RawCue) (durations : List Nat) : Option EntryCue :=
  match k.entryFrame durations.sum with
  | none => none
  | some e =>
    if k.actionOk then
      let p := locateFrame durations e
      some ⟨p.1, p.2, k.code, k.arg1, k.arg2⟩
    else none

/-- All cues of an entry resolved, or none if one fails (R10). -/
def resolveCues (durations : List Nat) : List RawCue → Option (List EntryCue)
  | [] => some []
  | k :: t =>
    match k.resolve durations, resolveCues durations t with
    | some x, some xs => some (x :: xs)
    | _, _ => none

/-! ## Title records (R3, R16, R19) -/

/-- The effective ring of a title record read (R175). -/
def Header.titleRing (h : Header) (sc : Idx4) (l : Locator) : Ring := Ring.max (h.sheetRing (.screen sc)) l.ring

/-- A title record read and checked (R3, R16). DESIGN CHOICE (log 44): the read of its fixed part and that of its
remainder are one access, with one count of four tries. -/
def Card.readTitle (c : Card) (m : Mem) (h : Header) (sc : Idx4) (entry : Nat) (l : Locator) :
    Except LoadFailure Title :=
  let ring := h.titleRing sc l
  let a := h.locate l
  if !h.grants l.area l.offset 64 ring false then .error (.areaFault entry)
  else if c.busFailed (.titleRead sc (Fin.ofNat 64 entry)) then .error (.memoryFault entry)
  else
    let fixed := m.readBytes a 64
    match checkFixedPart fixed with
    | some k => .error (.badRecord k (some entry) none none)
    | none =>
      let len := fieldAt fixed 8 4
      if !h.grants l.area l.offset len ring false then .error (.areaFault entry)
      else
        match checkTitle (m.readBytes a len) with
        | .ok t => .ok t
        | .error f => .error (.badRecord f.failed (some entry) f.reel f.track)

/-- The title cache as LOAD builds it: the titles with the locator each was read through, and the entries so far. -/
structure LoadBuild where
  titles : List (Locator × Title) := []
  entries : List Entry := []
  deriving DecidableEq, Repr

/-- A TITLE entry's place in the cache: an earlier entry's with the same locator, or a new one (R19). -/
def Card.cacheTitle (c : Card) (m : Mem) (h : Header) (sc : Idx4) (entry : Nat) (b : LoadBuild) (l : Locator) :
    Except LoadFailure (LoadBuild × Nat × Title) :=
  let key : Locator := { l with ring := h.titleRing sc l }
  match b.titles.findIdx? (fun x => x.1 == key) with
  | some i =>
    match b.titles[i]? with
    | some x => .ok (b, i, x.2)
    | none => .error (.memoryFault entry)
  | none =>
    match c.readTitle m h sc entry l with
    | .error f => .error f
    | .ok t => .ok ({ b with titles := b.titles ++ [(key, t)] }, b.titles.length, t)

/-- An entry added with its cues, once everything else of it is checked (R15 step 4). -/
def LoadBuild.add (b : LoadBuild) (entry : Nat) (e : RawEntry) (k : Condition) (kind : EntryKind)
    (durations : List Nat) : Except LoadFailure LoadBuild :=
  match resolveCues durations e.cues with
  | none => .error (.badRecord .entryCue (some entry) none none)
  | some cues => .ok { b with entries := b.entries ++ [{ kind := kind, condition := k, cues := cues }] }

/-- One entry checked wholly (R15 step 4). -/
def Card.checkEntry (c : Card) (m : Mem) (h : Header) (sc : Idx4) (entry : Nat) (b : LoadBuild) (e : RawEntry) :
    Except LoadFailure LoadBuild :=
  match e.checkFields with
  | .error k => .error (.badRecord k (some entry) none none)
  | .ok k =>
    match e.kind with
    | 1 =>
      match c.cacheTitle m h sc entry b e.locator with
      | .error f => .error f
      | .ok (b, i, t) => b.add entry e k (.title i) (t.reels.map (·.duration))
    | 2 => b.add entry e k (.interval e.seconds) [24 * e.seconds]
    | _ => b.add entry e k (.mark e.holdAtMark) []

/-- The entries checked in order, stopping at the first failure (R15). -/
def Card.checkEntries (c : Card) (m : Mem) (h : Header) (sc : Idx4) :
    Nat → LoadBuild → List RawEntry → Except LoadFailure LoadBuild
  | _, b, [] => .ok b
  | i, b, e :: t =>
    match c.checkEntry m h sc i b e with
    | .error f => .error f
    | .ok b => Card.checkEntries c m h sc (i + 1) b t

/-- The checks of a LOAD from its entry count on (R8, R15). -/
def Card.checkLoad (c : Card) (m : Mem) (h : Header) (sc : Idx4) (l : LoadInProgress) : Except LoadFailure LoadBuild :=
  if 64 < l.entryCount then .error (.badRecord .entryCount none none none) else c.checkEntries m h sc 0 {} l.entries

/-! ## The outcome (R16 to R18) -/

/-- A LOAD that stopped at a failure is answered (R16). MEMORY_FAULT names the screen's sheet as the place of a title
record, which lies in none of R185's places (DESIGN CHOICE, log 70). -/
def Card.failLoad (c : Card) (h : Header) (sc : Idx4) (l : LoadInProgress) (f : LoadFailure) : Card :=
  match f with
  | .badRecord k entry reel track =>
    c.answer (.screen sc) l.number .badRecord
      [entryField entry, optField 1 reel, optField 1 track, (1, k.code)]
  | .areaFault entry => c.answer (.screen sc) l.number .areaFault [(1, entry)]
  | .memoryFault entry =>
    (c.memoryFault false (Sheet.screen sc).place .titleRecord
      (match l.entries[entry]? with | some e => h.locate e.locator | none => 0)).answer (.screen sc) l.number
        .memoryFault [(1, entry)]

/-- The copies installed, before the screen enters LOADING (R17, R92, R118). The current entry stays what it was until
the first pass changes it, so that its change is seen (R22). -/
def Screen.install (x : Screen) (l : LoadInProgress) (b : LoadBuild) : Screen :=
  { x with
    pictureQueue := []
    soundQueue := []
    currentFeeds := none
    armedFeeds := none
    textKeys := []
    sound := x.sound.onLoad l.settings
    text := x.text.onLoad l.settings
    seq := { state := x.seq.state, current := x.seq.current, settings := l.settings, list := b.entries
             titles := b.titles.map (·.2), loadNumber := some l.number } }

/-- The entry armed at LOAD becomes the current one, and REFUSED entries before it PASSED (R26, R29). DESIGN CHOICE
(log 42): R29's test is made here, at the installation, also where the latch then finishes the screen (R18), so that a
LOAD whose current entry is an INTERVAL or MARK passes through READY. -/
def Card.firstCurrent (c : Card) (sc : Idx4) (i : Nat) : Card :=
  let c := c.modScr sc (fun x =>
    { x with
      currentFeeds := x.armedFeeds
      armedFeeds := none
      seq := { x.seq with position := some ⟨0, 0⟩, list := passRefused i x.seq.list } })
  ((c.setCurrent sc (some i)).passIfDue sc).testReadiness sc

/-- The first arming pass after the copies are installed (R26): the entry it arms becomes current, or the screen is
EMPTY. -/
def Card.firstPass (c : Card) (sc : Idx4) : Card :=
  match c.armNext sc with
  | (c, some i) => c.firstCurrent sc i
  | (c, none) => (c.setCurrent sc none).finishScreen sc .empty

/-- A LOAD that passed every check (R17): installation, LOADING, the first pass and the answer. -/
def Card.installLoad (c : Card) (sc : Idx4) (l : LoadInProgress) (b : LoadBuild) : Card :=
  let c := (c.releaseCues sc).modScr sc (fun x => x.install l b)
  let c := (c.setState sc .loading).firstPass sc
  c.answer (.screen sc) l.number (if l.clamped = 0 then .done else .clamped) [(2, l.clamped.toNat)]

/-- A latch set while the LOAD was in progress takes the screen to FINISHED (R18), also where it has been cleared
since. -/
def Card.finishIfLatched (c : Card) (sc : Idx4) (l : LoadInProgress) : Card :=
  if l.latched || c.auto.latch then c.finishNow sc .emergency .emergency else c

/-- The tries of a screen's title reads are forgotten with its LOAD. -/
def Card.forgetTitles (c : Card) (sc : Idx4) : Card :=
  { c with bus := c.bus.filter (fun p => match p.1 with | .titleRead s _ => s != sc | _ => true) }

/-- A LOAD in progress ends (R16 to R18). DESIGN CHOICE (log 43): R18 leaves open when each record is read; the title
records are read here, the settings block and the show list when the LOAD is taken (Card.beginLoad). -/
def Card.completeLoad (c : Card) (m : Mem) (h : Header) (sc : Idx4) : Card :=
  match (c.scr sc).seq.load with
  | none => c
  | some l =>
    let checked := c.checkLoad m h sc l
    let c := (c.forgetTitles sc).modSeq sc (fun q => { q with load := none })
    let c := match checked with
      | .error f => c.failLoad h sc l f
      | .ok b => c.installLoad sc l b
    c.finishIfLatched sc l

/-- The settings block of a screen sheet in memory. -/
def Header.settingsAddr (h : Header) (sc : Idx4) : Nat := h.sheetAddr (.screen sc) + 320
def settingsBytes (m : Mem) (h : Header) (sc : Idx4) : List Byte := m.readBytes (h.settingsAddr sc) 144

/-- The show list of a screen sheet in memory. -/
def Header.showListAddr (h : Header) (sc : Idx4) : Nat := h.sheetAddr (.screen sc) + 512

/-- A LOAD that is taken begins (R15). -/
def Card.beginLoad (c : Card) (m : Mem) (h : Header) (sc : Idx4) (number : U32) : Card :=
  let s := settingsOf (settingsBytes m h sc)
  let es := rawEntriesOf m (h.showListAddr sc)
  c.modSeq sc (fun q =>
    { q with load := some { number := number, settings := s.1, clamped := s.2, entryCount := es.1, entries := es.2 } })

/-- LOAD judged (R15, R25). -/
def Card.requestLoad (c : Card) (m : Mem) (h : Header) (sc : Idx4) (number : U32) : Card :=
  match (c.scr sc).seq.state with
  | .dark | .finished _ =>
    if c.auto.latch then c.answer (.screen sc) number .emergency else c.beginLoad m h sc number
  | _ => c.answer (.screen sc) number .refusedState

end Sys2Proof.Machine
end

