-- ==== Sys2Proof/Machine/Requests.lean ====
section
/-! DEFINITION. Requests: how a scan takes one (R177, R178), and the effect of each screen request (R14, R30, R36, R37,
R40 to R43, R47, R87). -/
namespace Sys2Proof.Machine

/-! ## Taking a request (R177, R178) -/

/-- The header, where a sheet is scanned now (R177): one scan is made at each boundary or tick, and takes one request at
most (R25). -/
def State.scanned (s : State) (sh : Sheet) : Option Header :=
  if (s.scan.get sh).taken then none else s.scanHeader sh

/-- The request word is a new request, read whole (R178 steps 1 to 3). -/
def State.isRequest (s : State) (sh : Sheet) (r : RequestWord) : Bool :=
  decide (r.number ≠ (s.scan.get sh).lastTaken) && decide (r.again = r.number)

/-- The last taken number written (R178 step 4), with which the scan at hand is over. -/
def State.setLastTaken (s : State) (sh : Sheet) (n : U32) : State :=
  { s with scan := s.scan.set sh { s.scan.get sh with lastTaken := n, taken := true } }

/-- A scan of a sheet that finds a request word (R178), with the further reads the request needs and its effect. Taken
or not, it is the scan of the boundary or tick at hand. -/
def State.takeRequest (s : State) (h : Header) (sh : Sheet) (r : RequestWord) (reads : List SheetRead)
    (effect : Card → Card) : State :=
  if s.card.busFailed (.requestWord sh) then (s.setTaken sh true).act (fun c => c.failScan h sh)
  else if s.isRequest sh r then
    match reads.find? (fun x => s.card.busFailed x.access) with
    | some x => (s.setTaken sh true).act (fun c => (c.busDone x.access).memoryFault false sh.place x.item x.addr)
    | none => (s.setLastTaken sh r.number).act (fun c =>
        effect (reads.foldl (fun c x => c.busDone x.access) (c.busDone (.requestWord sh))))
  else State.setTaken { s with card := s.card.busDone (.requestWord sh) } sh true

/-- A screen request (R25): none is taken while a LOAD of the screen is in progress; STOPPING refuses it; the frame of
the last boundary is settled before it is judged (R135). -/
def State.screenRequest (s : State) (sc : Idx4) (r : RequestWord) (reads : Header → List SheetRead)
    (effect : Header → Card → Card) : State :=
  match s.scanned (.screen sc) with
  | none => s
  | some h =>
    if (s.card.scr sc).seq.load.isSome then s
    else
      s.takeRequest h (.screen sc) r (reads h) (fun c =>
        if c.engine = .stopping then c.answer (.screen sc) r.number .refusedState
        else effect h (c.settleTransfer sc))

/-- A request of the booth or key sheet (R74, R146). -/
def State.boothRequest (s : State) (sh : Sheet) (r : RequestWord) (effect : Card → Card) : State :=
  match s.scanned sh with
  | none => s
  | some h => s.takeRequest h sh r [] effect

/-- The read of the settings block. -/
def settingsRead (sc : Idx4) (h : Header) : SheetRead := ⟨.settingsBlock sc, .settingsBlock, h.settingsAddr sc⟩

/-- The read of the show list. -/
def showListRead (sc : Idx4) (h : Header) : SheetRead := ⟨.showList sc, .showList, h.showListAddr sc⟩

/-- DONE. -/
def Card.done (c : Card) (sc : Idx4) (n : U32) : Card := c.answer (.screen sc) n .done

/-- REFUSED_STATE. -/
def Card.refuse (c : Card) (sc : Idx4) (n : U32) : Card := c.answer (.screen sc) n .refusedState

/-- The sequencer's work of the boundary in hand has been done by the request (log 2). Fault hold due is acted on by
it. -/
def Card.handled (c : Card) (sc : Idx4) : Card := c.modSeq sc (fun q => { q with handled := true })

/-- Fault hold due dropped at a boundary at which the screen is neither RUNNING nor STARVED (R39). DESIGN CHOICE (log
46): where a START, RESUME or CONTINUE is taken at that boundary, the state that R39 asks for is the one before the
request. -/
def Card.dropHold (c : Card) (sc : Idx4) : Card :=
  c.modSeq sc (fun q => { q with faultHoldDue := q.faultHoldDue && q.dueLater })

/-! ## START (R30, R47) -/

def Card.requestStart (c : Card) (sc : Idx4) (n : U32) : Card :=
  let x := c.scr sc
  if c.auto.latch then c.answer (.screen sc) n .emergency
  else
    match x.seq.state with
    | .ready =>
      if x.port.link = .up then ((((c.dropHold sc).enterRunning sc).handled sc).done sc n)
      else c.answer (.screen sc) n .noProjector
    | .loading =>
      if x.port.link = .up then (c.modSeq sc (fun q => { q with startWhenReady := true })).done sc n
      else c.answer (.screen sc) n .noProjector
    | _ => c.refuse sc n

/-- Readiness reached before a START at its boundary (R29, R47): it is the sequencer's work there, so that
start-when-ready, where it stands, is judged at the next boundary. -/
def Card.readyFirst (c : Card) (sc : Idx4) : Card :=
  if (c.scr sc).seq.state = .loading ∧ c.readyTest sc then ((c.testReadiness sc).dropHold sc).handled sc else c

/-- START, with readiness reached first where it is so ordered (R47). -/
def Card.orderedStart (c : Card) (sc : Idx4) (n : U32) (o : Order) : Card :=
  match o with
  | .requestFirst => c.requestStart sc n
  | .eventFirst => (c.readyFirst sc).requestStart sc n

/-! ## HOLD, RESUME and CONTINUE (R36, R37, R39, R47) -/

/-- The hold kind of a HOLD (R36, R39): FAULT where fault hold due is acted on at this boundary. DESIGN CHOICE (log 64):
HELD(FAULT) is entered at once, with one STATE_CHANGE, and not through HELD(OPERATOR). -/
def Sequencer.holdKind (q : Sequencer) : HoldKind :=
  if q.faultHoldDue && !q.dueLater && decide (q.advance ≠ .entryEnd) then .fault else .operator

/-- Fault hold due acted on by a HOLD taken at the same boundary (R39); where the completion there will end the entry,
it stands till then (R34, log 16). -/
def Card.takeHold (c : Card) (sc : Idx4) : Card :=
  c.modSeq sc (fun q =>
    { q with faultHoldDue := q.faultHoldDue && (q.dueLater || decide (q.advance = .entryEnd)) })

def Card.requestHold (c : Card) (sc : Idx4) (n : U32) : Card :=
  let q := (c.scr sc).seq
  match q.state with
  | .running | .starved _ =>
    (((c.takeHold sc).enterHeld sc q.holdKind).modSeq sc (fun q => { q with holdTaken := true })).done sc n
  | .held _ => c.done sc n
  | _ => c.refuse sc n

/-- The starvation limit that runs out at this boundary (R38). -/
def Card.limitReached (c : Card) (sc : Idx4) : Bool :=
  let q := (c.scr sc).seq
  decide (q.state = .starved .starve) && !c.recoveryTest sc && decide (q.starveLimit ≤ q.starveCount + 1)

/-- The event that meets a request, taken first (R47): the completion, or the starvation limit. -/
def Card.eventFirst (c : Card) (sc : Idx4) (o : Order) : Card :=
  match o with
  | .requestFirst => c
  | .eventFirst =>
    let c := c.complete sc
    if c.limitReached sc then c.starvedOut sc else c

/-- RESUME or CONTINUE taken (R37). -/
def Card.resumeShow (c : Card) (sc : Idx4) : Card :=
  let c := c.dropHold sc
  let q := (c.scr sc).seq
  let c := match q.current with
    | some i => if q.atMark && q.started then c.passMark sc i else c
    | none => c
  match (c.scr sc).seq.state with
  | .held _ => (c.runOrStarve sc).handled sc
  | _ => c.handled sc

def Card.requestResume (c : Card) (sc : Idx4) (n : U32) : Card :=
  match (c.scr sc).seq.state with
  | .held .operator | .held .mark => (c.resumeShow sc).done sc n
  | _ => c.refuse sc n

def Card.requestContinue (c : Card) (sc : Idx4) (n : U32) : Card :=
  match (c.scr sc).seq.state with
  | .held .fault => (c.resumeShow sc).done sc n
  | _ => c.refuse sc n

/-! ## SKIP, REEL_JUMP, STOP and UNLOAD (R40 to R43, R47) -/

/-- The end cause of an entry that a request ends at the boundary where its last frame completes (R47): COMPLETE if that
frame was counted delivered. -/
def Screen.endCauseOf (x : Screen) (cause : EndCause) : EndCause :=
  if x.seq.advance = .entryEnd ∧ x.port.lastDelivered then .complete else cause

/-- The current entry ended by a request, with the completion that falls at the same boundary. -/
def Card.endBy (c : Card) (sc : Idx4) (cause : EndCause) : Card :=
  let cause := (c.scr sc).endCauseOf cause
  (c.modSeq sc Sequencer.advanced).endCurrent sc cause

/-- The screen's state after SKIP, with a new current entry (R40). -/
def Card.afterSkip (c : Card) (sc : Idx4) : Card :=
  match (c.scr sc).seq.state with
  | .ready => if c.readyTest sc then c else c.setState sc .loading
  | .running => (c.playOn sc).handled sc
  | .held .mark => c.setState sc (.held .operator)
  | .starved _ => (c.runOrStarve sc).handled sc
  | _ => c

def Card.requestSkip (c : Card) (sc : Idx4) (n : U32) : Card :=
  match (c.scr sc).seq.state with
  | .ready | .running | .held _ | .starved _ =>
    ((((c.endBy sc .skipped).moveOn sc).afterSkip sc).done sc n)
  | _ => c.refuse sc n

/-- The jump made (R41), with the successor pass where few enough frames are left after it (R26). -/
def Card.jump (c : Card) (sc : Idx4) (i reel : Nat) : Card :=
  let c := ((c.releaseRefs sc i).jumpFeeds sc reel).releaseCues sc
  let c := c.modSeq sc (fun q =>
    { q with position := some ⟨reel, 0⟩, inProgress := false, starveCount := 0, presented := none })
  let c := match (c.scr sc).seq.state with
    | .running | .starved _ => c.setState sc (.starved .reposition)
    | _ => c
  c.passIfDue sc

/-- REEL_JUMP judged for a TITLE (R41, R47): a completion that ends the entry is made and the request refused; a reel
end is made before the jump. -/
def Card.jumpTitle (c : Card) (sc : Idx4) (n : U32) (i reel : Nat) (t : Title) : Card :=
  match (c.scr sc).seq.advance with
  | .entryEnd => (c.complete sc).refuse sc n
  | .reelEnd _ =>
    if reel < t.reels.length then ((c.complete sc).jump sc i reel).done sc n
    else c.answer (.screen sc) n .badArgument
  | _ =>
    if reel < t.reels.length then (c.jump sc i reel).done sc n else c.answer (.screen sc) n .badArgument

def Card.requestJump (c : Card) (sc : Idx4) (n : U32) (reel : Byte) : Card :=
  let q := (c.scr sc).seq
  match q.state with
  | .running | .held _ | .starved _ =>
    match q.current, q.title with
    | some i, some t => c.jumpTitle sc n i reel.toNat t
    | _, _ => c.refuse sc n
  | _ => c.refuse sc n

def Card.requestStop (c : Card) (sc : Idx4) (n : U32) : Card :=
  match (c.scr sc).seq.state with
  | .loading | .ready | .running | .held _ | .starved _ =>
    ((c.endBy sc .stopped).finishScreen sc .stopped).done sc n
  | _ => c.refuse sc n

def Card.requestUnload (c : Card) (sc : Idx4) (n : U32) : Card :=
  match (c.scr sc).seq.state with
  | .dark => c.done sc n
  | .loading | .ready | .held _ =>
    (((c.endCurrent sc .unloaded).dropArmed sc).unloadScreen sc).done sc n
  | .finished _ => (c.unloadScreen sc).done sc n
  | _ => c.refuse sc n

/-! ## The SET requests (R14, R101, R106, R108, R118) -/

/-- The answer of a SET request: CLAMPED with its flags, or DONE. -/
def Card.answerSet (c : Card) (sc : Idx4) (n : U32) (flags : ClampFlags) : Card :=
  c.answer (.screen sc) n (if flags = 0 then .done else .clamped) [(2, flags.toNat)]

/-- The settings copy changed. -/
def Card.modSettings (c : Card) (sc : Idx4) (f : Settings → Settings) : Card :=
  c.modSeq sc (fun q => { q with settings := f q.settings })

def Card.requestLevel (c : Card) (sc : Idx4) (n : U32) (fade : U32) (bs : List Byte) : Card :=
  let level := levelOf bs
  let ms := clampTo 0 10000 fade.toNat
  ((c.modSettings sc (fun x => { x with level := level.1 })).setLevel sc level.1 ms.1).answerSet sc n
    (clampBit 5 level.2 ||| clampBit 8 ms.2)

/-- SET_LIPSYNC. A dip that begins with the master at 0 ends at once (R109). -/
def Card.requestLipsync (c : Card) (sc : Idx4) (n : U32) (bs : List Byte) : Card :=
  let d := lipsyncOf bs
  ((c.modSettings sc (fun x => { x with lipsync := d.1 })).modSound sc (fun x =>
    (x.setDelay d.1).endDown (c.targetAfterDown sc))).answerSet sc n (clampBit 6 d.2)

def Card.requestRoutes (c : Card) (sc : Idx4) (n : U32) (bs : List Byte) : Card :=
  let r := routesOf bs
  ((c.modSettings sc (fun x => { x with routes := r.1 })).modSound sc (fun x =>
    { x with newRoutes := some r.1 })).answerSet sc n (clampBit 3 r.2.1 ||| clampBit 7 r.2.2)

def Card.requestLanguages (c : Card) (sc : Idx4) (n : U32) (bs : List Byte) : Card :=
  let o := overlayOf bs
  let mask := captionsOf bs
  ((c.modSettings sc (fun x => { x with overlay := o.1, captions := mask })).modText sc (fun t =>
    { t with pendingSelection := some ⟨o.1, mask⟩ })).answerSet sc n (clampBit 4 o.2)

/-! ## KEY_ANSWER (R87) -/

/-- Whether a text key table entry's state lends a key (R86). -/
def TextKeyState.lends : TextKeyState → Bool
  | .lent _ _ => true
  | _ => false

/-- A text key table entry settled; chunks of a track LENT its key wait for the next tick's judgement (R57, R87). -/
def Card.settleKey (c : Card) (sc : Idx4) (track : U32) (st : TextKeyState) : Card :=
  c.modScr sc (fun x =>
    { x with textKeys := x.textKeys.map (fun k =>
        if k.track = track then { k with state := st, fresh := st.lends } else k) })

/-- A HELD track declined (R57, R87). -/
def Card.declineKey (c : Card) (sc : Idx4) (n track : U32) : Card :=
  ((c.settleKey sc track .declined).skipDeclined sc track).answer (.screen sc) n .done
    [(1, DetailWord.declined.code)]

def Card.requestKey (c : Card) (sc : Idx4) (n track : U32) (answer : Byte) : Card :=
  let x := c.scr sc
  if (textKeyOf x.textKeys track).map (·.state) ≠ some .held then c.refuse sc n
  else if answer = 2 then c.declineKey sc n track
  else if answer = 1 then
    match x.seq.title.bind (fun t => c.permits.lender sc t.id track) with
    | some (p, key) =>
      (c.settleKey sc track (.lent key p.id)).answer (.screen sc) n .done
        [(1, DetailWord.resumed.code), (4, p.id.toNat)]
    | none => c.declineKey sc n track
  else c.answer (.screen sc) n .badArgument

end Sys2Proof.Machine
end

