-- ==== Sys2Proof/Machine/Boundary.lean ====
section
/-! DEFINITION. A screen's frame boundary (R23, R120, R127, R133, R140, R180), the thresholds that fall at one, and the
events of the accesses in flight (R183). -/
namespace Sys2Proof.Machine

/-! ## The frame period (R23, R93) -/

/-- A screen's link rate as copied at the latest start (R93), where the header gives one of the two rates. -/
def Card.headerRate (c : Card) (sc : Idx4) (old : Nat) : Nat :=
  match c.header with
  | none => old
  | some h =>
    let r := (h.screens.get sc).linkRate
    if r = 48000 ∨ r = 96000 then r else old

/-- A boundary falls: the sample count begins afresh, and a link rate that a start changed comes into force (R23,
R93). -/
def Card.beginPeriod (c : Card) (sc : Idx4) : Card :=
  c.modSound sc (fun x => { x with count := 0, linkRate := c.headerRate sc x.linkRate })

/-- The length of the frame period that begins, from the screen's state once its actions are made (R23); the boundary is
over. -/
def Card.fixPeriod (c : Card) (sc : Idx4) : Card :=
  c.modSound sc (fun x => { x with period := samplesPerFrame x.linkRate (c.scr sc).seq.frameRate, fadeOut := false })

/-- Whether a screen's blocks act: the engine works and the screen was enabled (R23, R130). -/
def Card.works (c : Card) (sc : Idx4) : Bool := c.active && c.enabled sc

/-! ## The blocks' work at a boundary -/

/-- A route list handed over since the last boundary replaces the route table (R101). -/
def Sound.takeRoutes (x : Sound) : Sound :=
  match x.newRoutes with
  | none => x
  | some r => { x with routes := r, newRoutes := none }

/-- The sets and the queue for the presented frame (R120 steps 2 to 5); the second part goes to the automation unit. -/
def Card.showFrame (c : Card) (sc : Idx4) (f : Option Presented) : Card × List AutoCue :=
  match f with
  | some p => if p.isTitle then c.presentCues sc p.reel p.frame else (c, [])
  | none => (c, [])

/-- Whether a TITLE frame is presented. -/
def showsTitle (f : Option Presented) : Bool := match f with | some p => p.isTitle | none => false

/-- The work of the other blocks once the sequencer has acted: link training, language selection, cues, sound, picture
transfer, captions and the position report. An unmuting that the sequencer's work brought is taken before a LEVEL cue
(R107, log 50). DESIGN CHOICE (log 45): SET_ROUTES and SET_LANGUAGES taken at this boundary are applied at it, which R14
calls the next frame boundary. DESIGN CHOICE (log 61): the overrun cues of the presented frame are handed over first,
then its SOUND_UNIT fault, then the faults of its picture (R165). -/
def Card.blockWork (c : Card) (sc : Idx4) : Card :=
  let f := (c.scr sc).seq.presented
  match ((c.trainLink sc).applySelection sc).showFrame sc f with
  | (c, track) =>
    let c := (((c.settleTarget sc).fireCues sc f track).feedSound sc f).modSound sc Sound.takeRoutes
    let c := c.transferPicture sc f
    (c.buildCaptions sc (showsTitle f)).positionReport sc

/-- The marks of the boundary in hand cleared at its end. -/
def Sequencer.endBoundary (q : Sequencer) : Sequencer :=
  { q with handled := false, holdTaken := false, dueLater := false, dueEnded := false, presented := none }

/-- The work of an enabled screen at a boundary while the engine works (R23). -/
def Card.screenBoundary (c : Card) (sc : Idx4) : Card :=
  let c := c.settleTransfer sc
  (((c.sequencerStep sc).muteFade sc (!c.mutedOutside sc)).blockWork sc).modSeq sc Sequencer.endBoundary

/-- What was handed over since the last boundary put into use: the pending selection in every screen state (R126), and
the route list (R101). DEDUCED (log 52): the first boundary after the handover is the next one that falls, whatever the
engine state. -/
def Card.takeHandedOver (c : Card) (sc : Idx4) : Card := (c.applySelection sc).modSound sc Sound.takeRoutes

/-- A screen's frame boundary (R23): boundaries fall in every engine state, and what was handed over is put into use at
each. A screen that was not enabled sends captions alone (R127, log 28). -/
def Card.frameBoundary (c : Card) (sc : Idx4) : Card :=
  let c := c.beginPeriod sc
  let c :=
    if c.works sc then c.screenBoundary sc
    else if c.active then (c.takeHandedOver sc).buildCaptions sc false
    else c.takeHandedOver sc
  c.fixPeriod sc

/-- FRAME_BOUNDARY: the scan of the screen's sheet at this boundary is over (R25, R177, log 2), and the blocks act. -/
def State.frameBoundary (s : State) (sc : Idx4) : State :=
  (s.endScan (.screen sc)).act (fun c => c.frameBoundary sc)

/-! ## The thresholds (R38, R130, R142) -/

/-- The starvation limit runs out at the coming boundary (R38, log 22). -/
def Card.starvedOutNow (c : Card) (sc : Idx4) : Card :=
  let q := (c.scr sc).seq
  if c.limitReached sc && !(q.faultHoldDue && !q.dueLater) && !q.handled then (c.settleTransfer sc).starvedOut sc
  else c

/-- The training count reaches 48 at the coming boundary (R130, log 22). -/
def Card.trainingTimeout (c : Card) (sc : Idx4) : Card :=
  let p := (c.scr sc).port
  if p.link = .training ∧ Config.trainingLimit ≤ p.training + 1 then c.trainingCount sc else c

/-- The answer-wait count reaches 8 at the coming boundary (R130, log 22). -/
def Card.noAnswer (c : Card) (sc : Idx4) : Card :=
  let p := (c.scr sc).port
  match p.transfer with
  | some t =>
    if t.answered = false ∧ Config.answerWaitLimit ≤ p.answerWait + 1 then c.settleTransfer sc else c
  | none => c

/-! ## Failed accesses in flight (R59, R96, R158, R181, R183) -/

/-- The number of bursts of a read (R59, R96). -/
def burstCount (length : Nat) : Nat := ceilDiv length Config.burstBytes

/-- A failed burst against the burst reached and its failed tries: a later burst means that those before it are kept. -/
def burstAfter (reached tries burst : Nat) : Nat × Nat :=
  if burst = reached then (reached, tries + 1) else if reached < burst then (burst, 1) else (reached, tries)

/-- A burst of the fetch in flight fails (R59). -/
def Card.failFetchBurst (c : Card) (burst : Nat) : Card :=
  match c.fetch with
  | none => c
  | some f =>
    match c.dirEntry f.slot with
    | none => c
    | some e =>
      if burst < burstCount e.header.length then
        let b := burstAfter f.burst f.tries burst
        if b.2 < Config.busTries then { c with fetch := some { f with burst := b.1, tries := b.2 } }
        else { c with fetch := none }.answerSlot e.slot e.gen .fetchFault e.header.screen
      else c

/-- A burst of a unit read fails (R96, R132). -/
def Card.failUnitBurst (c : Card) (sc : Idx4) (r : Reader) (burst : Nat) : Card :=
  match (c.scr sc).stagedOf r with
  | some ⟨g, l, .reading reached tries⟩ =>
    if burst < burstCount g.length then
      let b := burstAfter reached tries burst
      c.setStaged sc r (some ⟨g, l, if b.2 < Config.busTries then .reading b.1 b.2 else .failed .read⟩)
    else c
  | _ => c

/-- A write of a showing record fails (R158). -/
def Card.failRecordWrite (c : Card) : Card :=
  match c.header, c.counter.current, c.counter.writing with
  | some h, some p, some (_, place) =>
    let c := c.busFail .recordWrite
    if c.busFailed .recordWrite then
      (c.busDone .recordWrite).pageWriteFault p.page p.gen .showingRecord (h.locate p.locator + 128 * place)
    else c
  | _, _, _ => c

/-- The header read of STARTING fails (R171); the detail of MEMORY is 0 (log 62). -/
def State.failHeaderRead (s : State) : State :=
  match s.card.engine with
  | .starting =>
    let s := { s with card := s.card.busFail .boothHeader }
    if s.card.busFailed .boothHeader then { s with card := s.card.busDone .boothHeader }.enterFaulted ⟨6, 0⟩ else s
  | _ => s

/-- The write of a notice place fails (R181, R183). -/
def State.failNoticeWrite (s : State) (sh : Sheet) (kind : NoticeKind) : State :=
  let access := BusAccess.noticeWrite sh kind
  match s.card.header with
  | none => s
  | some h =>
    if ((s.scan.get sh).place kind).writing.isSome then
      let s := { s with card := s.card.busFail access }
      if s.card.busFailed access then ({ s with card := s.card.busDone access }.failNotice h sh kind).finish else s
    else s

/-- A try of an access to booth memory fails (R183, log 8). -/
def State.failAccess (s : State) (a : BusAccess) : State :=
  match a with
  | .boothHeader => s.failHeaderRead
  | .fetchBurst b => if s.card.active then s.act (fun c => c.failFetchBurst b) else s
  | .pictureBurst sc b => if s.card.active then s.act (fun c => c.failUnitBurst sc .picture b) else s
  | .soundBurst sc b => if s.card.active then s.act (fun c => c.failUnitBurst sc .sound b) else s
  | .recordWrite => if s.card.active then s.act Card.failRecordWrite else s
  | .noticeWrite sh kind => if s.card.active then s.failNoticeWrite sh kind else s
  | a => if s.card.active || s.card.engine == .starting then { s with card := s.card.busFail a } else s

end Sys2Proof.Machine
end

