-- ==== Sys2Proof/Machine/Flags.lean ====
section
/-! DEFINITION. The register window (R169, R182): the attention line, what reading a register returns, part writes of
BOOTH BASE and part reads of ATTENTION. -/
namespace Sys2Proof.Machine

/-- The attention line (R182): asserted while any cause is set whose enable is set. -/
def Window.line (w : Window) : Bool := decide (w.attention &&& w.enables ≠ 0)

/-- The engine state's code in CONTROL (R169). -/
def EngineState.code : EngineState → Nat
  | .off => 0 | .starting => 1 | .running => 2 | .stopping => 3 | .faulted => 4

/-- The four registers (R169). -/
inductive Register where
  | ident | control | boothBase | attention
  deriving DecidableEq, Repr

/-- The value a register reads as (R169). -/
def State.readRegister (s : State) : Register → U64
  | .ident => Config.ident
  | .control =>
    BitVec.ofNat 64 (flagCode s.window.runRequest + s.window.enables.toNat * 2 ^ 8 + s.card.engine.code * 2 ^ 16 +
      s.window.faultCode * 2 ^ 24 + s.window.faultDetail * 2 ^ 32)
  | .boothBase => s.window.boothBase
  | .attention => s.window.attention.setWidth 64

/-- The bits that the bytes of a part access cover (R169). -/
def coverMask (cover : BitVec 8) : U64 :=
  BitVec.ofNat 64 (((List.range 8).filter (fun i => cover.getLsbD i)).map (fun i => 255 * 256 ^ i)).sum

/-- A part write of a register: the bytes it covers change (R169). -/
def partWrite (old value : U64) (cover : BitVec 8) : U64 :=
  (old &&& ~~~(coverMask cover)) ||| (value &&& coverMask cover)

/-- BOOTH BASE after a write: bits 5 to 0 read as 0 (R169). -/
def baseAfter (old value : U64) (cover : BitVec 8) : U64 := partWrite old value cover &&& ~~~63#64

/-- The window after a read of ATTENTION (R169, R182): the causes whose bits lie in the bytes read are returned and
cleared. -/
def Window.readAttention (w : Window) (cover : BitVec 8) : Window :=
  if cover.getLsbD 0 then { w with readData := w.attention.setWidth 64, attention := 0 } else { w with readData := 0 }

/-- The states in which a write to BOOTH BASE is taken (R169). -/
def EngineState.takesBase : EngineState → Bool
  | .off | .faulted => true
  | _ => false

end Sys2Proof.Machine
end

