-- ==== Sys2Proof/Machine/PowerCommands.lean ====
section
/-! DEFINITION. The commands of power, the register window and the engine states. -/
namespace Sys2Proof.Machine

/-- What a step answers (log 1). -/
abbrev Answer := Host.Outcome State Fault Refusal

/-- A command's next state; a card without main power takes none (R90, log 26). -/
def answer (s t : State) : Answer := .next (if s.powered then t else s)

/-- POWER_ON (R90). -/
def execPowerOn (held : Bool) (permits : FMap Permit) (records : FMap ShowingRecord) (s : State) : Answer :=
  .next (s.powerOn held permits records)

/-- RUN_REQUEST_SET (R170). -/
def execRunRequestSet (enables : Option (BitVec 6)) (host : HostWrites) (s : State) : Answer :=
  answer s ((s.hostWrites host).setRun enables)

/-- RUN_REQUEST_CLEAR (R170). -/
def execRunRequestClear (write : StopWrite) (s : State) : Answer := answer s (s.clearRun write)

/-- ENGINE_RESET (R174): a write that also sets the run request acts as a reset alone (R170), and the enables are kept
(R169, log 18). -/
def execEngineReset (_run : Bool) (_enables : Option (BitVec 6)) (s : State) : Answer := answer s s.engineReset

/-- ATTENTION_ENABLES_WRITE (R169, R182). -/
def execAttentionEnablesWrite (enables : BitVec 6) (s : State) : Answer :=
  answer s (s.modWindow (fun w => { w with enables := enables }))

/-- BOOTH_BASE_WRITE (R169). -/
def execBoothBaseWrite (value : U64) (cover : BitVec 8) (s : State) : Answer :=
  answer s (if s.card.engine.takesBase then
    s.modWindow (fun w => { w with boothBase := baseAfter w.boothBase value cover }) else s)

/-- IGNORED_REGISTER_WRITE (R169). -/
def execIgnoredRegisterWrite (_target : IgnoredWrite) (_value : U64) (s : State) : Answer := answer s s

/-- ATTENTION_READ (R169, R182). -/
def execAttentionRead (cover : BitVec 8) (s : State) : Answer := answer s (s.modWindow (fun w => w.readAttention cover))

/-- START_CHECKS_DONE (R171, R172). -/
def execStartChecksDone (host : HostWrites) (s : State) : Answer :=
  let t := s.hostWrites host
  answer s (if s.card.engine = .starting then t.startChecks else t)

/-- STOP_COMPLETE (R173). -/
def execStopComplete (host : HostWrites) (s : State) : Answer :=
  let t := s.hostWrites host
  answer s (if s.stopDone then t.completeStop else t)

/-- MAIN_POWER_LOSS (R90). -/
def execMainPowerLoss (s : State) : Answer := answer s s.losePower

end Sys2Proof.Machine
end

