-- ==== Sys2Proof/Machine/TimeCommands.lean ====
section
/-! DEFINITION. The commands of time: ticks, boundaries, sample periods, seconds and the thresholds. -/
namespace Sys2Proof.Machine

/-- A step of a screen's blocks, where they act (R23, R130). -/
def State.actOn (s : State) (sc : Idx4) (f : Card → Card) : State := if s.card.works sc then s.act f else s

/-- BOOTH_TICK (R176). -/
def execBoothTick (inputs : BitVec 8) (emergency : EmergencySample) (host : HostWrites) (s : State) : Answer :=
  answer s ((s.hostWrites host).boothTick inputs emergency)

/-- FRAME_BOUNDARY (R23). -/
def execFrameBoundary (sc : Idx4) (s : State) : Answer := answer s (s.frameBoundary sc)

/-- STARVED_OUT (R38). -/
def execStarvedOut (sc : Idx4) (s : State) : Answer := answer s (s.actOn sc (fun c => c.starvedOutNow sc))

/-- PULSE_TIMER_EXPIRY (R142). -/
def execPulseTimerExpiry (sc : Idx4) (output : Fin 8) (s : State) : Answer :=
  answer s (s.actOn sc (fun c => c.modAuto (fun a => a.expire sc output.val)))

/-- TRAINING_TIMEOUT (R130). -/
def execTrainingTimeout (sc : Idx4) (s : State) : Answer := answer s (s.actOn sc (fun c => c.trainingTimeout sc))

/-- NO_ANSWER (R130). -/
def execNoAnswer (sc : Idx4) (s : State) : Answer := answer s (s.actOn sc (fun c => c.noAnswer sc))

/-- LINK_SAMPLE_PERIOD (R93, R105). -/
def execLinkSamplePeriod (sc : Idx4) (s : State) : Answer := answer s (s.act (fun c => c.samplePeriod sc))

/-- DIP_DOWN_END (R109). -/
def execDipDownEnd (sc : Idx4) (s : State) : Answer :=
  answer s (s.act (fun c => c.modSound sc (fun x => x.endDown (c.targetAfterDown sc))))

/-- DIP_UP_END (R109). -/
def execDipUpEnd (sc : Idx4) (s : State) : Answer := answer s (s.act (fun c => c.modSound sc Sound.endUp))

/-- BOOTH_CLOCK_SECOND (R79): the standby supply keeps the clock running without main power. -/
def execBoothClockSecond (s : State) : Answer :=
  .next { s with card := { s.card with permits := s.card.permits.second } }

end Sys2Proof.Machine
end

