-- ==== Sys2Proof/Machine/ScreenCommands.lean ====
section
/-! DEFINITION. The screen requests and the completion of LOAD. -/
namespace Sys2Proof.Machine

/-- LOAD (R15, R47). -/
def execLoad (sc : Idx4) (r : RequestWord) (order : Order) (host : HostWrites) (s : State) : Answer :=
  let t := s.hostWrites host
  answer s (t.screenRequest sc r (fun h => [settingsRead sc h, showListRead sc h])
    (fun h c => (c.eventFirst sc order).requestLoad t.mem h sc r.number))

/-- LOAD_COMPLETE (R16 to R18). -/
def execLoadComplete (sc : Idx4) (host : HostWrites) (s : State) : Answer :=
  let t := s.hostWrites host
  answer s (match t.card.header with
    | none => t
    | some h => t.actOn sc (fun c => c.completeLoad t.mem h sc))

/-- START (R30, R47). -/
def execStart (sc : Idx4) (r : RequestWord) (order : Order) (s : State) : Answer :=
  answer s (s.screenRequest sc r (fun _ => []) (fun _ c => c.orderedStart sc r.number order))

/-- HOLD (R36, R47). -/
def execHold (sc : Idx4) (r : RequestWord) (order : Order) (s : State) : Answer :=
  answer s (s.screenRequest sc r (fun _ => []) (fun _ c => (c.eventFirst sc order).requestHold sc r.number))

/-- RESUME (R37). -/
def execResume (sc : Idx4) (r : RequestWord) (s : State) : Answer :=
  answer s (s.screenRequest sc r (fun _ => []) (fun _ c => c.requestResume sc r.number))

/-- CONTINUE (R37). -/
def execContinue (sc : Idx4) (r : RequestWord) (s : State) : Answer :=
  answer s (s.screenRequest sc r (fun _ => []) (fun _ c => c.requestContinue sc r.number))

/-- SKIP (R40). -/
def execSkip (sc : Idx4) (r : RequestWord) (s : State) : Answer :=
  answer s (s.screenRequest sc r (fun _ => []) (fun _ c => c.requestSkip sc r.number))

/-- REEL_JUMP (R41). -/
def execReelJump (sc : Idx4) (r : RequestWord) (reel : Byte) (s : State) : Answer :=
  answer s (s.screenRequest sc r (fun _ => []) (fun _ c => c.requestJump sc r.number reel))

/-- STOP (R42). -/
def execStop (sc : Idx4) (r : RequestWord) (s : State) : Answer :=
  answer s (s.screenRequest sc r (fun _ => []) (fun _ c => c.requestStop sc r.number))

/-- UNLOAD (R43, R47). -/
def execUnload (sc : Idx4) (r : RequestWord) (order : Order) (s : State) : Answer :=
  answer s (s.screenRequest sc r (fun _ => []) (fun _ c => (c.eventFirst sc order).requestUnload sc r.number))

/-- SET_LEVEL (R14, R106). -/
def execSetLevel (sc : Idx4) (r : RequestWord) (fade : U32) (host : HostWrites) (s : State) : Answer :=
  let t := s.hostWrites host
  answer s (t.screenRequest sc r (fun h => [settingsRead sc h])
    (fun h c => c.requestLevel sc r.number fade (settingsBytes t.mem h sc)))

/-- SET_LIPSYNC (R14, R108). -/
def execSetLipsync (sc : Idx4) (r : RequestWord) (host : HostWrites) (s : State) : Answer :=
  let t := s.hostWrites host
  answer s (t.screenRequest sc r (fun h => [settingsRead sc h])
    (fun h c => c.requestLipsync sc r.number (settingsBytes t.mem h sc)))

/-- SET_ROUTES (R14, R101). -/
def execSetRoutes (sc : Idx4) (r : RequestWord) (host : HostWrites) (s : State) : Answer :=
  let t := s.hostWrites host
  answer s (t.screenRequest sc r (fun h => [settingsRead sc h])
    (fun h c => c.requestRoutes sc r.number (settingsBytes t.mem h sc)))

/-- SET_LANGUAGES (R14, R118). -/
def execSetLanguages (sc : Idx4) (r : RequestWord) (host : HostWrites) (s : State) : Answer :=
  let t := s.hostWrites host
  answer s (t.screenRequest sc r (fun h => [settingsRead sc h])
    (fun h c => c.requestLanguages sc r.number (settingsBytes t.mem h sc)))

/-- KEY_ANSWER (R87), judged once the completion of the boundary is made (R47). -/
def execKeyAnswer (sc : Idx4) (r : RequestWord) (track : U32) (code : Byte) (s : State) : Answer :=
  answer s (s.screenRequest sc r (fun _ => []) (fun _ c => (c.complete sc).requestKey sc r.number track code))

end Sys2Proof.Machine
end

