-- ==== Sys2Proof/Machine/KeyCommands.lean ====
section
/-! DEFINITION. The requests of the key sheet and the booth sheet, and the requests with an unknown code. -/
namespace Sys2Proof.Machine

/-- UNKNOWN_REQUEST (R25, R74, R178): a request code outside its sheet's set. -/
def execUnknownRequest (sh : Sheet) (r : RequestWord) (code : U16) (s : State) : Answer :=
  answer s (
    if sh.knowsCode code.toNat then s
    else
      match sh with
      | .screen sc =>
        s.screenRequest sc r (fun _ => []) (fun _ c => c.answer (.screen sc) r.number .unknownRequest)
      | sh => s.boothRequest sh r (fun c => c.answer sh r.number .unknownRequest))

/-- PERMIT_ADD (R75). -/
def execPermitAdd (r : RequestWord) (block : List Byte) (s : State) : Answer :=
  answer s (s.boothRequest .key r (fun c => c.permitAdd r.number block))

/-- PERMIT_REMOVE (R76). -/
def execPermitRemove (r : RequestWord) (permit : U32) (s : State) : Answer :=
  answer s (s.boothRequest .key r (fun c => c.permitRemove r.number permit))

/-- PERMIT_WIPE (R77). -/
def execPermitWipe (r : RequestWord) (s : State) : Answer :=
  answer s (s.boothRequest .key r (fun c => c.permitWipe r.number))

/-- CLOCK_SET (R80). -/
def execClockSet (r : RequestWord) (time : U64) (s : State) : Answer :=
  answer s (s.boothRequest .key r (fun c => c.requestClock r.number time))

/-- CLEAR_EMERGENCY (R146). -/
def execClearEmergency (r : RequestWord) (s : State) : Answer :=
  answer s (s.boothRequest .booth r (fun c => c.clearEmergency r.number))

end Sys2Proof.Machine
end

