-- ==== Sys2Proof/Machine/StreamCommands.lean ====
section
/-! DEFINITION. The commands of intake, unit reads, bus failures, log pages, captions and notices. -/
namespace Sys2Proof.Machine

/-- A step of the booth-wide blocks, which act in RUNNING and STOPPING. -/
def State.actHeader (s : State) (f : Header → Card → Card) : State :=
  match s.card.header with
  | none => s
  | some h => if s.card.active then s.act (f h) else s

/-- FETCH_START (R58, R59). -/
def execFetchStart (s : State) : Answer := answer s (s.actHeader (fun h c => c.startFetch h))

/-- FETCH_COMPLETE (R61 to R64). -/
def execFetchComplete (host : HostWrites) (s : State) : Answer :=
  let t := s.hostWrites host
  answer s (t.actHeader (fun h c => c.completeFetch t.mem h))

/-- BUS_ACCESS_FAILURE (R183). -/
def execBusAccessFailure (a : BusAccess) (s : State) : Answer := answer s (s.failAccess a)

/-- UNIT_READ_START (R95, R132). -/
def execUnitReadStart (sc : Idx4) (reader : Reader) (host : HostWrites) (s : State) : Answer :=
  let t := s.hostWrites host
  answer s (t.actHeader (fun h c => c.startUnitRead t.mem h sc reader))

/-- SOUND_UNIT_READ_END (R97). -/
def execSoundUnitReadEnd (sc : Idx4) (host : HostWrites) (s : State) : Answer :=
  let t := s.hostWrites host
  answer s (t.actHeader (fun h c => c.endSoundRead t.mem h sc))

/-- PICTURE_UNIT_READ_END (R132). -/
def execPictureUnitReadEnd (sc : Idx4) (host : HostWrites) (s : State) : Answer :=
  let t := s.hostWrites host
  answer s (t.actHeader (fun h c => c.endPictureRead t.mem h sc))

/-- CAPTION_SEND_COMPLETE (R128), in every engine state. -/
def execCaptionSendComplete (sc : Idx4) (s : State) : Answer :=
  answer s { s with card := s.card.modScr sc (fun x => { x with captions := x.captions.sendDone }) }

/-- LOG_RECORD_WRITE_START (R158). -/
def execLogRecordWriteStart (s : State) : Answer := answer s (s.actHeader (fun _ c => c.beginRecordWrite))

/-- LOG_RECORD_WRITTEN (R158). -/
def execLogRecordWritten (s : State) : Answer :=
  answer s (s.actHeader (fun _ c => (c.busDone .recordWrite).endRecordWrite s.mem))

/-- NOTICE_WRITE_END (R181). -/
def execNoticeWriteEnd (sh : Sheet) (kind : NoticeKind) (s : State) : Answer :=
  answer s (match s.card.header with
    | none => s
    | some h =>
      if s.card.active then
        State.endNotice { s with card := s.card.busDone (.noticeWrite sh kind) } h sh kind
      else s)

end Sys2Proof.Machine
end

