-- ==== Sys2Proof/Machine/LinkCommands.lean ====
section
/-! DEFINITION. The commands of the picture link: segments, the projector's answers, and the events of the link. -/
namespace Sys2Proof.Machine

/-- A screen's picture port changed, where its blocks act (R130). -/
def State.onPort (s : State) (sc : Idx4) (f : PicturePort → PicturePort) : State :=
  if s.card.works sc then { s with card := s.card.modPort sc f } else s

/-- TRANSFER_SEGMENT_SENT (R134). -/
def execTransferSegmentSent (sc : Idx4) (s : State) : Answer := answer s (s.onPort sc PicturePort.segmentSent)

/-- PROJECTOR_TAKEN (R135). -/
def execProjectorTaken (sc : Idx4) (count : U16) (s : State) : Answer :=
  answer s (s.actOn sc (fun c => c.projectorTaken sc count))

/-- PROJECTOR_REFUSED (R135). -/
def execProjectorRefused (sc : Idx4) (count : U16) (s : State) : Answer :=
  answer s (s.actOn sc (fun c => c.projectorRefused sc count))

/-- BACK_OFF_REQUEST (R134). -/
def execBackOffRequest (sc : Idx4) (s : State) : Answer := answer s (s.onPort sc PicturePort.requestBackOff)

/-- BACK_OFF_RELEASE (R134). -/
def execBackOffRelease (sc : Idx4) (s : State) : Answer := answer s (s.onPort sc PicturePort.releaseBackOff)

/-- LINK_FOUND (R130). -/
def execLinkFound (sc : Idx4) (s : State) : Answer := answer s (s.actOn sc (fun c => c.linkFound sc))

/-- LINK_TRAINED (R130). -/
def execLinkTrained (sc : Idx4) (s : State) : Answer := answer s (s.actOn sc (fun c => c.linkTrained sc))

/-- TRAINING_FAILED (R130). -/
def execTrainingFailed (sc : Idx4) (s : State) : Answer := answer s (s.actOn sc (fun c => c.trainingFailed sc))

/-- SIGNAL_LOST (R130). -/
def execSignalLost (sc : Idx4) (s : State) : Answer := answer s (s.actOn sc (fun c => c.signalLost sc))

end Sys2Proof.Machine
end

