-- ==== Sys2Proof/Machine/Dispatch.lean ====
section
/-! DEFINITION. One command's meaning, arm by arm. -/
namespace Sys2Proof.Machine

/-- A command's effect on everything but the queue. -/
def exec (i : Instr) (s : State) : Host.Outcome State Fault Refusal :=
  match i with
  | .powerOn standbyHeld permits records => Sys2Proof.Machine.execPowerOn standbyHeld permits records s
  | .runRequestSet enables host => Sys2Proof.Machine.execRunRequestSet enables host s
  | .runRequestClear write => Sys2Proof.Machine.execRunRequestClear write s
  | .engineReset run enables => Sys2Proof.Machine.execEngineReset run enables s
  | .attentionEnablesWrite enables => Sys2Proof.Machine.execAttentionEnablesWrite enables s
  | .boothBaseWrite value cover => Sys2Proof.Machine.execBoothBaseWrite value cover s
  | .ignoredRegisterWrite target value => Sys2Proof.Machine.execIgnoredRegisterWrite target value s
  | .attentionRead cover => Sys2Proof.Machine.execAttentionRead cover s
  | .startChecksDone host => Sys2Proof.Machine.execStartChecksDone host s
  | .stopComplete host => Sys2Proof.Machine.execStopComplete host s
  | .boothTick inputs emergency host => Sys2Proof.Machine.execBoothTick inputs emergency host s
  | .frameBoundary sc => Sys2Proof.Machine.execFrameBoundary sc s
  | .starvedOut sc => Sys2Proof.Machine.execStarvedOut sc s
  | .pulseTimerExpiry sc output => Sys2Proof.Machine.execPulseTimerExpiry sc output s
  | .trainingTimeout sc => Sys2Proof.Machine.execTrainingTimeout sc s
  | .noAnswer sc => Sys2Proof.Machine.execNoAnswer sc s
  | .linkSamplePeriod sc => Sys2Proof.Machine.execLinkSamplePeriod sc s
  | .dipDownEnd sc => Sys2Proof.Machine.execDipDownEnd sc s
  | .dipUpEnd sc => Sys2Proof.Machine.execDipUpEnd sc s
  | .boothClockSecond => Sys2Proof.Machine.execBoothClockSecond s
  | .load sc r order host => Sys2Proof.Machine.execLoad sc r order host s
  | .loadComplete sc host => Sys2Proof.Machine.execLoadComplete sc host s
  | .start sc r order => Sys2Proof.Machine.execStart sc r order s
  | .hold sc r order => Sys2Proof.Machine.execHold sc r order s
  | .resume sc r => Sys2Proof.Machine.execResume sc r s
  | .continueHeld sc r => Sys2Proof.Machine.execContinue sc r s
  | .skip sc r => Sys2Proof.Machine.execSkip sc r s
  | .reelJump sc r reel => Sys2Proof.Machine.execReelJump sc r reel s
  | .stop sc r => Sys2Proof.Machine.execStop sc r s
  | .unload sc r order => Sys2Proof.Machine.execUnload sc r order s
  | .setLevel sc r fade host => Sys2Proof.Machine.execSetLevel sc r fade host s
  | .setLipsync sc r host => Sys2Proof.Machine.execSetLipsync sc r host s
  | .setRoutes sc r host => Sys2Proof.Machine.execSetRoutes sc r host s
  | .setLanguages sc r host => Sys2Proof.Machine.execSetLanguages sc r host s
  | .keyAnswer sc r track answer => Sys2Proof.Machine.execKeyAnswer sc r track answer s
  | .unknownRequest sh r code => Sys2Proof.Machine.execUnknownRequest sh r code s
  | .permitAdd r block => Sys2Proof.Machine.execPermitAdd r block s
  | .permitRemove r permit => Sys2Proof.Machine.execPermitRemove r permit s
  | .permitWipe r => Sys2Proof.Machine.execPermitWipe r s
  | .clockSet r time => Sys2Proof.Machine.execClockSet r time s
  | .clearEmergency r => Sys2Proof.Machine.execClearEmergency r s
  | .fetchStart => Sys2Proof.Machine.execFetchStart s
  | .fetchComplete host => Sys2Proof.Machine.execFetchComplete host s
  | .busAccessFailure access => Sys2Proof.Machine.execBusAccessFailure access s
  | .unitReadStart sc reader host => Sys2Proof.Machine.execUnitReadStart sc reader host s
  | .soundUnitReadEnd sc host => Sys2Proof.Machine.execSoundUnitReadEnd sc host s
  | .pictureUnitReadEnd sc host => Sys2Proof.Machine.execPictureUnitReadEnd sc host s
  | .transferSegmentSent sc => Sys2Proof.Machine.execTransferSegmentSent sc s
  | .projectorTaken sc count => Sys2Proof.Machine.execProjectorTaken sc count s
  | .projectorRefused sc count => Sys2Proof.Machine.execProjectorRefused sc count s
  | .backOffRequest sc => Sys2Proof.Machine.execBackOffRequest sc s
  | .backOffRelease sc => Sys2Proof.Machine.execBackOffRelease sc s
  | .linkFound sc => Sys2Proof.Machine.execLinkFound sc s
  | .linkTrained sc => Sys2Proof.Machine.execLinkTrained sc s
  | .trainingFailed sc => Sys2Proof.Machine.execTrainingFailed sc s
  | .signalLost sc => Sys2Proof.Machine.execSignalLost sc s
  | .captionSendComplete sc => Sys2Proof.Machine.execCaptionSendComplete sc s
  | .logRecordWriteStart => Sys2Proof.Machine.execLogRecordWriteStart s
  | .logRecordWritten => Sys2Proof.Machine.execLogRecordWritten s
  | .noticeWriteEnd sh kind => Sys2Proof.Machine.execNoticeWriteEnd sh kind s
  | .mainPowerLoss => Sys2Proof.Machine.execMainPowerLoss s

end Sys2Proof.Machine
end

