-- ==== Sys2Proof/Safety.lean ====
section
/-! DEFINITION. What statements about the card are said in terms of: the invariants of its steps, when a request is
taken, what an answer word says, what a step leaves alone, and what a boundary does with cues, faults and transfers. -/
namespace Sys2Proof.Machine

/-! ## Invariants -/

/-- Between steps nothing waits to be published and no search for a page is due. -/
def State.settled (s : State) : Prop := s.card.outbox = [] ∧ s.card.seekDue = false

/-- The detail that the scanner keeps for a notice place fits the place's 120 bytes for it (R181, 12.9). -/
def State.detailsFit (s : State) : Prop := ∀ sh k, ((s.scan.get sh).place k).detail.length ≤ 120

/-- Bits 5 to 0 of BOOTH BASE are 0 (R169). -/
def State.baseAligned (s : State) : Prop := s.window.boothBase &&& 63#64 = 0#64

/-- The retained records are whole (R72, R152, R153): every permit's and every showing record's check is right, and the
free places of the holding list number at least the ARMED and OPEN records. -/
def State.recordsWhole (s : State) : Prop :=
  (∀ x ∈ s.card.permits.table, x.2.checkHolds = true) ∧ (∀ r ∈ s.card.counter.holding, r.checkHolds = true) ∧
    s.card.counter.inFlight ≤ s.card.counter.freePlaces

/-- A permit of limited allowance has no more showings counted and reserved than its allowance (R81). -/
def Permit.withinAllowance (p : Permit) : Prop := p.allowance = 0 ∨ p.counted + p.pending ≤ p.allowance

/-- The free records of the cue pool are enough for what every screen's reserve of 48 still lacks (R114). -/
def CuePool.reservesKept (p : CuePool) : Prop := (Idx4.all.map (fun s => 48 - p.heldBy s)).sum ≤ p.free.length

/-- The cue pool and the cue queues agree (R112 to R114): the held records are listed by number, no record is free twice
or free and held, every record on a screen's queue is held by that screen and stands there once, held and free records
number 512, and the free ones cover the reserves. -/
def Card.poolLaw (c : Card) : Prop :=
  FMap.Sorted c.pool.held ∧ c.pool.free.Nodup ∧ (∀ n ∈ c.pool.free, FMap.find c.pool.held n = none) ∧
    (∀ sc, (c.scr sc).text.queue.Nodup ∧
      ∀ n ∈ (c.scr sc).text.queue, (FMap.find c.pool.held n).map (·.owner) = some sc) ∧
    c.pool.held.length + c.pool.free.length = 512 ∧ c.pool.reservesKept

/-- The overlay set and the caption sets of every screen hold four records at most (R118). -/
def Card.setsFit (c : Card) : Prop :=
  ∀ sc, (c.scr sc).text.overlay.length ≤ 4 ∧ ∀ slot, ((c.scr sc).text.captions.get slot).length ≤ 4

/-- The law of R139: while the emergency latch is set every screen's outputs equal the emergency pattern. No pulse timer
then runs, since each pattern cancels them all. -/
def Automation.latchLaw (a : Automation) : Prop :=
  a.latch = true → a.outputs = a.emergency ∧ a.timers = Quad.const []

/-! ## When requests are taken -/

/-- Main power is present, no access has a failed try behind it, and nothing waits from an earlier step. -/
structure State.calm (s : State) : Prop where
  powered : s.powered = true
  bus : s.card.bus = []
  settled : s.settled

/-- A scan of a sheet takes the request (R177, R178): the sheet is scanned under the header copy `h`, and the number is
new and the same at both readings. -/
structure State.takes (s : State) (sh : Sheet) (h : Header) (r : RequestWord) : Prop where
  calm : s.calm
  scanned : s.scanned sh = some h
  fresh : s.isRequest sh r = true

/-- The boundary's settling of the frame transfer leaves the link as it is (R130): there is none, or it was answered, or
the answer-wait count stays below 8. -/
def Card.linkStays (c : Card) (sc : Idx4) : Prop :=
  ∀ t, (c.scr sc).port.transfer = some t → t.answered = true ∨ (c.scr sc).port.answerWait + 1 < Config.answerWaitLimit

/-- A screen's request is taken and judged (R25): the engine is RUNNING, no LOAD of the screen is in progress, and the
frame transfer of the last boundary settles without a change of the link. -/
structure State.judges (s : State) (sc : Idx4) (h : Header) (r : RequestWord) : Prop where
  takes : s.takes (.screen sc) h r
  running : s.card.engine = .running
  noLoad : (s.card.scr sc).seq.load = none
  link : s.card.linkStays sc

/-- A screen's blocks act (R23, R130), under the header copy `h`. -/
structure State.acts (s : State) (sc : Idx4) (h : Header) : Prop where
  calm : s.calm
  active : s.card.active = true
  header : s.card.header = some h
  enabled : (h.screens.get sc).enabled = true

/-! ## Answers and frames -/

/-- The address of a sheet's answer word (12.3). -/
def Header.answerAddr (h : Header) (sh : Sheet) : Nat := h.sheetAddr sh + (sheetLayout sh).answer

/-- The answer word of a sheet reads as a result with its detail and the answered number (R179, 12.3), and the sheet's
cause of ATTENTION is set (R182). -/
def State.answered (t : State) (h : Header) (sh : Sheet) (n : U32) (r : AnswerResult)
    (detail : List (Nat × Nat) := []) : Prop :=
  t.mem.readBytes (h.answerAddr sh) 32 = leBytes r.code 2 ++ [0, 0] ++ answerDetail detail ++ leBytes n.toNat 4 ∧
    t.window.attention &&& sh.causeBit = sh.causeBit

/-- An address lies in a span of bytes from an address on. -/
def inSpan (a : Nat) (span : Nat × Nat) : Prop := ∃ k, k < span.2 ∧ a % addressSpace = (span.1 + k) % addressSpace

/-- Every byte of booth memory outside the spans reads as before. -/
def Mem.sameOutside (m m' : Mem) (spans : List (Nat × Nat)) : Prop :=
  ∀ a, (∀ p ∈ spans, ¬ inSpan a p) → m'.read a = m.read a

/-- The span of a sheet's answer word. -/
def Header.answerSpan (h : Header) (sh : Sheet) : Nat × Nat := (h.answerAddr sh, 32)

/-- The span that the beginning of a notice write stores to (R181): the opening copy and the detail. -/
def Header.noticeSpan (h : Header) (sh : Sheet) (k : NoticeKind) : Nat × Nat := (h.noticeAddr sh k, 124)

/-- The span of a slot's answer word (12.6). -/
def Header.slotSpan (h : Header) (slot : Nat) : Nat × Nat := (h.slotAddr slot + 8, 8)

/-- A sheet's answer word lies apart from the part of the booth sheet that the card writes (12.3), so that a log page or
a booth notice written after the answer leaves the answer standing. -/
def Header.apart (h : Header) (sh : Sheet) : Prop :=
  ∀ a, inSpan a (h.answerSpan sh) → ¬ inSpan a (h.sheetAddr .booth + 576, 1120)

/-- Two spans with no byte in common. -/
def spansApart (p q : Nat × Nat) : Prop := ∀ a, inSpan a p → ¬ inSpan a q

/-- A slot's answer word reads as a result with the answered generation (R69, 12.6). -/
def State.slotAnswered (t : State) (h : Header) (slot : Nat) (gen : U32) (r : SlotResult) : Prop :=
  t.mem.readBytes (h.slotAddr slot + 8) 8 = leBytes r.code 1 ++ [0, 0, 0] ++ leBytes gen.toNat 4

/-- Two screens that differ in nothing but the fader's target and step. -/
def Screen.sameButFader (x y : Screen) : Prop :=
  ∃ t k, y = { x with sound := { x.sound with target := t, step := k } }

/-- The picture port once the boundary at hand has settled the frame transfer and the link has stayed (R130, R135): a
transfer in flight is abandoned, its PICTURE frame lost, and one without an answer adds 1 to the answer-wait count. -/
def PicturePort.settled (p : PicturePort) : PicturePort :=
  match p.transfer with
  | none => p
  | some tr =>
    { p with
      transfer := none
      lost := if tr.kind = .picture then p.lost + 1 else p.lost
      answerWait := if tr.answered then p.answerWait else p.answerWait + 1 }

/-- A screen with its port settled. -/
def Screen.settled (x : Screen) : Screen := { x with port := x.port.settled }

/-- Beside one screen, nothing of the card differs but the fader's target and step of the other screens, the tries on
the bus and the due marks of the permit and booth reports. -/
structure Card.onlyScreen (sc : Idx4) (c d : Card) : Prop where
  engine : d.engine = c.engine
  header : d.header = c.header
  slots : d.slots = c.slots
  directory : d.directory = c.directory
  fetch : d.fetch = c.fetch
  permits : d.permits = c.permits
  pool : d.pool = c.pool
  auto : d.auto = c.auto
  counter : d.counter = c.counter
  owedPermits : d.owedPermits = c.owedPermits
  owedLost : d.owedLost = c.owedLost
  others : ∀ sd, sd ≠ sc → (c.scr sd).sameButFader (d.scr sd)

/-- The registers but ATTENTION, main power and the waiting commands are as before. -/
structure State.sameOutside (s t : State) : Prop where
  pending : t.pending = s.pending
  powered : t.powered = s.powered
  window : t.window = { s.window with attention := t.window.attention }

/-- No event that R47 lets come first meets a request of the screen: no frame is in progress and the starvation limit
does not run out. -/
def Card.noEvent (c : Card) (sc : Idx4) : Prop := (c.scr sc).seq.inProgress = false ∧ c.limitReached sc = false

/-- The completion of the frame in progress ends a RUNNING show (R24, R35): it is the last frame of the current entry,
and no successor is armed. -/
def Card.endsShow (c : Card) (sc : Idx4) : Prop :=
  let q := (c.scr sc).seq
  q.state = .running ∧ q.advance = .entryEnd ∧ q.started = true ∧ q.settled = true ∧ q.armed = none

/-- Nothing of the card differs but the faders' targets and steps and the due marks of the permit and booth reports. -/
def Card.sameButFaders (c d : Card) : Prop :=
  d = { c with screens := d.screens, permitDue := d.permitDue, boothDue := d.boothDue } ∧
    ∀ sc, (c.scr sc).sameButFader (d.scr sc)

/-- The raised count that the scanner holds for a notice place (R181). -/
def State.raised (s : State) (sh : Sheet) (k : NoticeKind) : U32 := ((s.scan.get sh).place k).count

/-- A request of a screen does nothing but be answered with a result: the whole screen is `x` but for the fader, no byte
of booth memory is written but the answer word, and the scan at hand is over. `m` is booth memory with what the host
wrote before the command. -/
def State.answeredOnly (s t : State) (m : Mem) (h : Header) (sc : Idx4) (x : Screen) (n : U32)
    (r : AnswerResult) : Prop :=
  x.sameButFader (t.card.scr sc) ∧ (t.scan.get (.screen sc)).lastTaken = n ∧ t.scanned (.screen sc) = none ∧
    t.answered h (.screen sc) n r ∧
    m.sameOutside t.mem [h.answerSpan (.screen sc)] ∧ s.card.onlyScreen sc t.card ∧ s.sameOutside t

/-! ## Showing records and reservations -/

/-- A permit's record after a release of a reservation (R84): pending and users one lower, and no record where it is
RETIRING and no longer used. -/
def Permit.released (p : Permit) : Option Permit :=
  if p.state = .retiring ∧ p.users ≤ 1 then none else some { p with pending := p.pending - 1, users := p.users - 1 }

/-- A permit's record after the end of an entry that was credited (R84): users one lower, and no record where it is
RETIRING and no longer used. -/
def Permit.usedUp (p : Permit) : Option Permit :=
  if p.state = .retiring ∧ p.users ≤ 1 then none else some { p with users := p.users - 1 }

/-- A permit's record after the credit call (R84, R72): pending one lower, counted one higher up to 4 294 967 295, and
the check right. -/
def Permit.creditedOnce (p : Permit) : Option Permit :=
  if p.state = .retiring ∧ p.users = 0 then none
  else some { p with pending := p.pending - 1, counted := min 4294967295 (p.counted + 1) }.withCheck

/-- A permit table `v` follows from `u` by a change of the one record that a permit id names; with no id, or one that no
record has, the table stays. -/
def PermitUnit.becomes (u v : PermitUnit) (id : Option U32) (after : Permit → Option Permit) : Prop :=
  v = { u with table := v.table } ∧
    match id.bind u.byId with
    | none => v.table = u.table
    | some (place, p) => ∀ n, FMap.find v.table n = if n = place then after p else FMap.find u.table n

/-- A showing record as the start of its entry leaves it (R31, R154), with some sound faults more (R152): OPEN, with the
booth time as its start time and a right check. -/
def Card.openedRecord (c : Card) (k : ShowingRecord) (faults : Nat) : ShowingRecord :=
  { k with state := .opened, startTime := c.boothTime, soundFaults := k.soundFaults + faults }.withCheck

/-- The entry play tally set up from a record at its entry's start (R149). -/
def ShowingRecord.newTally (k : ShowingRecord) (perMille : Nat) (ti : Title) : PlayTally :=
  { record := k.number, entry := k.entry, total := k.total, perMille := perMille, needed := k.needed, credited := 0
    isCredited := false, reels := ti.reels.map (fun _ => { pass := 0, best := 0, last := none }) }

/-- A TITLE entry of a screen starts (R31, R149, R154): its record is OPEN and its tally set up, and nothing else of the
counter changes. `faults` is the sound faults of its first frame (R152). -/
def State.startsPlay (s t : State) (sc : Idx4) (i : Nat) (ti : Title) (faults : Nat) : Prop :=
  ∀ k, s.card.counter.recordOf sc i = some k →
    t.card.counter = { s.card.counter with
      holding := s.card.counter.holding.map (fun r => if r.isFor sc i then s.card.openedRecord r faults else r)
      plays := s.card.counter.plays.set sc (some (k.newTally (s.card.perMille (s.card.permitOfEntry sc i)) ti)) }

/-- A TITLE entry starts in a step that also ends another entry or arms one (R31, R149, R154): its record is OPEN, with
at most one sound fault of its first frame, and its tally set up. -/
def State.opensPlay (s t : State) (sc : Idx4) (i : Nat) (ti : Title) : Prop :=
  ∀ k, s.card.counter.recordOf sc i = some k →
    (∃ n, n ≤ 1 ∧ s.card.openedRecord k n ∈ t.card.counter.holding) ∧
      t.card.counter.plays.get sc = some (k.newTally (t.card.perMille (t.card.permitOfEntry sc i)) ti)

/-- What becomes of the showing record of a screen's current entry, a TITLE, when the entry ends with a cause or, not
started, is dropped (R28, R34, R152, R155): started, its record is CLOSED with the port's counts (log 81), the booth
time and the cause; not started, its ARMED record is gone. The records of other screens stay. -/
def State.endsRecord (s t : State) (sc : Idx4) (i : Nat) (cause : EndCause) : Prop :=
  (let x := s.card.scr sc
   (x.seq.started = true → ∀ k ∈ s.card.counter.holding, k.isFor sc i = true →
     ({ k with
       state := .closed, endCause := some cause, endTime := s.card.boothTime, lost := x.port.settled.lost
       pictureFaults := x.port.faulted } : ShowingRecord).withCheck ∈ t.card.counter.holding) ∧
   (x.seq.started = false → ∀ k ∈ t.card.counter.holding, k.screen = sc → k.entry = i → k.state ≠ .armed) ∧
   (∀ k ∈ s.card.counter.holding, k.screen ≠ sc → k ∈ t.card.counter.holding))

/-- What becomes of the reservations when a screen's current entry, a TITLE, ends or is dropped (R28, R34, R84): an
uncredited entry's is released and a credited one's is over; then that of the armed entry is released where it is
dropped. -/
def State.freesPermits (s t : State) (sc : Idx4) (i : Nat) (dropped : Option Nat) : Prop :=
  ∃ v, s.card.permits.becomes v (s.card.permitOfEntry sc i)
      (if (s.card.scr sc).seq.started = true ∧ s.card.playCredited sc = true then Permit.usedUp else Permit.released) ∧
    v.becomes t.card.permits (dropped.bind (s.card.permitOfEntry sc)) Permit.released

/-- The armed entry of a screen, an INTERVAL or a TITLE, becomes current in place of another and is handled at the same
boundary (R31, R32, R35, R37): its feeds carry over; an INTERVAL's first frame is presented, and a TITLE's where it
`plays`, so that the entry starts; else the screen is STARVED with reason STARVE and count 0. -/
def State.handlesNext (s t : State) (sc : Idx4) (j : Nat) (plays : Prop) : Prop :=
  let x := s.card.scr sc
  let y := t.card.scr sc
  let presents := y.seq.state = .running ∧ y.seq.inProgress = true ∧ y.seq.started = true
  y.seq.current = some j ∧ y.seq.position = some ⟨0, 0⟩ ∧ y.currentFeeds = x.armedFeeds ∧
    (96 < (x.seq.durations j).sum → y.seq.settled = false ∧ y.seq.armed = none ∧ y.armedFeeds = none) ∧
    (∀ e n, x.seq.list[j]? = some e → e.kind = .interval n → presents) ∧
    (∀ ti, x.seq.titleOf j = some ti →
      (plays → presents ∧ (x.seq.current ≠ some j → s.opensPlay t sc j ti)) ∧
      (¬ plays → y.seq.state = .starved .starve ∧ y.seq.starveCount = 0 ∧ y.seq.started = false ∧
        y.seq.inProgress = false ∧ t.raised (.screen sc) .starved = s.raised (.screen sc) .starved + 1))

/-- An entry that shows frames: an INTERVAL or a TITLE. -/
def Sequencer.shows (q : Sequencer) (j : Nat) : Prop :=
  q.titleOf j ≠ none ∨ ∃ e n, q.list[j]? = some e ∧ e.kind = .interval n

/-- The entry that becomes current in place of the ended one, if any, arms no successor at once (R35): it has more than
96 frames. -/
def Sequencer.armsNone (q : Sequencer) : Prop := ∀ j, q.armed = some j → 96 < (q.durations j).sum

/-! ## A boundary's cues, faults and transfers -/

/-- Every screen's pulse timers are listed by rising output, each output once (R138). -/
def Automation.timersRise (a : Automation) : Prop := ∀ sc, FMap.Sorted (a.timers.get sc)

/-- What a cue asks for (R140). -/
structure CueAction where
  code : Nat
  arg1 : Nat
  arg2 : Nat
  deriving DecidableEq, Repr

/-- What a cue does to output `n` (R141, R142): SET 1 and PULSE 3 turn it on, PULSE for a number of frames, and CLEAR 2
turns it off. None for another output, an output or width out of range, and every other action. -/
def CueAction.drives (a : CueAction) (n : Nat) : Option (Bool × Option Nat) :=
  if a.arg1 ≠ n ∨ 7 < a.arg1 then none
  else
    match a.code with
    | 1 => some (true, none)
    | 2 => some (false, none)
    | 3 => if 1 ≤ a.arg2 ∧ a.arg2 ≤ 255 then some (true, some a.arg2) else none
    | _ => none

/-- A cue that is passed on (R141): an unknown action, or an output or width out of range. -/
def CueAction.isPassed (a : CueAction) : Bool :=
  decide (a.code = 0 ∨ 4 < a.code ∨ (a.code ≤ 3 ∧ 7 < a.arg1) ∨ (a.code = 3 ∧ (a.arg2 = 0 ∨ 255 < a.arg2)))

/-- The automation unit's work at a boundary of a screen (R140 to R142): each running timer is counted down, and one
that reaches 0 turns its output off; then the cues act in order, the last one on an output deciding it, and none while
the latch is set. Each cue passed on raises CUE_PASSED, and the last LEVEL 4 leaves the show level. -/
def State.actsCues (s t : State) (sc : Idx4) (cues : List CueAction) : Prop :=
  let a := s.card.auto
  let b := t.card.auto
  (∀ n, n < 8 →
    let on := (a.outputs.get sc).getLsbD n
    let counted := match FMap.find (a.timers.get sc) n with
      | some k => if k ≤ 1 then (false, none) else (on, some (k - 1))
      | none => (on, none)
    let driven := if a.latch then none else (cues.filterMap (·.drives n)).getLast?
    ((b.outputs.get sc).getLsbD n, FMap.find (b.timers.get sc) n) = driven.getD counted) ∧
  (∀ sd, sd ≠ sc → b.outputs.get sd = a.outputs.get sd ∧ b.timers.get sd = a.timers.get sd) ∧
  b = { a with outputs := b.outputs, timers := b.timers } ∧
  t.raised (.screen sc) .cuePassed =
    s.raised (.screen sc) .cuePassed + BitVec.ofNat 32 (cues.filter CueAction.isPassed).length ∧
  (t.card.scr sc).sound.level =
    match (cues.filter (fun a => a.code == 4)).getLast? with
    | some a => min 16384 a.arg1
    | none => (s.card.scr sc).sound.level

/-- The entry cues of a frame of an entry, in list order (R140 step 2). -/
def Entry.cuesAt (e : Entry) (p : Position) : List CueAction :=
  (e.cues.filter (fun k => k.reel == p.reel && k.frame == p.frame)).map (fun k => ⟨k.code, k.arg1, k.arg2⟩)

/-- The TEXT cue of a held record, with its reel. -/
def Card.textRecord (c : Card) (n : Nat) : Option (Nat × TextCue) :=
  (FMap.find c.pool.held n).bind (fun r => match r.body with | .text k => some (r.reel, k) | .automation _ => none)

/-- The AUTOMATION cue of a held record, with its reel. -/
def Card.autoRecord (c : Card) (n : Nat) : Option (Nat × AutoCue) :=
  (FMap.find c.pool.held n).bind (fun r => match r.body with | .automation k => some (r.reel, k) | .text _ => none)

/-- The language selection in force once a boundary has applied a pending one (R126). -/
def TextState.chosen (x : TextState) : Selection := x.pendingSelection.getD x.selection

/-- Whether a TEXT record of a slot has entered every set that a selection gives it (R118). -/
def TextState.placed (x : TextState) (sel : Selection) (n : Nat) (slot : Idx4) : Bool :=
  decide ((sel.overlay = some slot → n ∈ x.overlay) ∧
    (sel.captions.getLsbD slot.toNat = true → n ∈ x.captions.get slot))

/-- The cue queue once a boundary has applied a pending selection (R126): a record that has no target left, or is placed
in all of them, leaves. -/
def Card.cueQueue (c : Card) (sc : Idx4) : List Nat :=
  let x := (c.scr sc).text
  match x.pendingSelection with
  | none => x.queue
  | some sel => x.queue.filter (fun n => (c.textRecord n).all (fun r => !x.placed sel n r.2.slot))

/-- The records that a presented frame overruns (R120 step 4). -/
def Card.overrunAt (c : Card) (sc : Idx4) (reel frame : Nat) : List Nat :=
  (c.cueQueue sc).filter (fun n => match c.textRecord n with
    | some (r, k) => r == reel && decide (k.outFrame ≤ frame)
    | none => false)

/-- The AUTOMATION actions handed over for a presented frame (R122). -/
def Card.trackCuesAt (c : Card) (sc : Idx4) (reel frame : Nat) : List CueAction :=
  (c.cueQueue sc).filterMap (fun n => match c.autoRecord n with
    | some (r, k) => if r = reel ∧ k.frame ≤ frame then some ⟨k.code, k.arg1, k.arg2⟩ else none
    | none => none)

/-- A set at a presented frame (R120, R126): it keeps the records that its selection keeps and that are not over, and
then takes from the queue's head each TEXT record wanted, of the reel, due and not over, while it holds fewer than
four. -/
def Card.setAt (c : Card) (sc : Idx4) (reel frame : Nat) (set : List Nat) (keeps : Option Idx4 → Bool)
    (wanted : Idx4 → Bool) : List Nat :=
  let slot := fun (n : Nat) => (c.textRecord n).map (fun x => x.2.slot)
  let pending := (c.scr sc).text.pendingSelection.isSome
  let kept := set.filter (fun n =>
    (!pending || keeps (slot n)) && (FMap.find c.pool.held n).isSome &&
      (c.textRecord n).all (fun x => decide (frame < x.2.outFrame)))
  (c.cueQueue sc).foldl (fun set n => match c.textRecord n with
    | some (r, k) =>
      if r = reel ∧ k.inFrame ≤ frame ∧ frame < k.outFrame ∧ wanted k.slot = true ∧ n ∉ set ∧ set.length < 4 then
        set ++ [n]
      else set
    | none => set) kept

/-- The cue state of a screen after a presented TITLE frame (R120 to R122, R126): the sets; the queue without the
records placed in all their targets, overrun or handed over; and the pool without the records that left the queue and
the sets. -/
def State.showsCues (s t : State) (sc : Idx4) (reel frame : Nat) : Prop :=
  let c := s.card
  let x := (c.scr sc).text
  let y := (t.card.scr sc).text
  let sel := x.chosen
  let used := fun (n : Nat) => n ∈ y.queue ∨ n ∈ y.overlay ∨ ∃ slot, n ∈ y.captions.get slot
  y.selection = sel ∧ y.pendingSelection = none ∧ y.nextArrival = x.nextArrival ∧
  y.overlay = c.setAt sc reel frame x.overlay (·.any (fun k => sel.overlay == some k)) (sel.overlay == some ·) ∧
  (∀ slot, y.captions.get slot = c.setAt sc reel frame (x.captions.get slot)
    (fun _ => sel.captions.getLsbD slot.toNat) (fun k => k == slot && sel.captions.getLsbD slot.toNat)) ∧
  y.queue = (c.cueQueue sc).filter (fun n =>
    match c.textRecord n, c.autoRecord n with
    | some (r, k), _ => !decide (r = reel ∧ (k.outFrame ≤ frame ∨ k.inFrame ≤ frame ∧ y.placed sel n k.slot = true))
    | none, some (r, k) => !decide (r = reel ∧ k.frame ≤ frame)
    | none, none => true) ∧
  (∀ n, used n → FMap.find t.card.pool.held n = FMap.find c.pool.held n) ∧
  (∀ n r, FMap.find c.pool.held n = some r → r.owner = sc → ¬ used n →
    (∀ k, c.textRecord n = some (reel, k) → n ∈ c.cueQueue sc → k.inFrame ≤ frame → k.outFrame ≤ frame) →
    FMap.find t.card.pool.held n = none)

/-- The cue state of a screen after a boundary that presents no TITLE frame (R120, R126): a pending selection comes into
force, the sets and the queue keep the records that it gives a target, and what stands in none of them is free; nothing
else changes. -/
def State.keepsCues (s t : State) (sc : Idx4) : Prop :=
  let c := s.card
  let x := (c.scr sc).text
  let y := (t.card.scr sc).text
  let sel := x.chosen
  let used := fun (n : Nat) => n ∈ y.queue ∨ n ∈ y.overlay ∨ ∃ slot, n ∈ y.captions.get slot
  y.selection = sel ∧ y.pendingSelection = none ∧ y.nextArrival = x.nextArrival ∧ y.queue = c.cueQueue sc ∧
  (x.pendingSelection = none → y = x ∧ t.card.pool = c.pool) ∧
  (x.pendingSelection ≠ none →
    y.overlay = x.overlay.filter (fun n => (c.textRecord n).any (fun r => sel.overlay == some r.2.slot)) ∧
    (∀ slot, y.captions.get slot =
      if sel.captions.getLsbD slot.toNat = true then x.captions.get slot else []) ∧
    (FMap.Sorted c.pool.held → ∀ n r, FMap.find c.pool.held n = some r →
      (r.owner = sc → ¬ used n → FMap.find t.card.pool.held n = none) ∧
      (r.owner ≠ sc ∨ used n → FMap.find t.card.pool.held n = some r)))

/-- The overlay handed to the picture port (R120 step 6, R123). -/
def Card.overlayAt (c : Card) (set : List Nat) (frame : Nat) : List OverlayCue :=
  set.filterMap (fun n => (c.textRecord n).map (fun x =>
    let k := x.2
    let a := frame - k.inFrame
    let b := k.outFrame - frame
    { region := k.region, style := k.style, text := k.text
      opacity := if a < k.fadeIn then 255 * (a + 1) / (k.fadeIn + 1)
        else if b ≤ k.fadeOut then 255 * b / (k.fadeOut + 1) else 255 }))

/-- The caption state frame of a boundary (R127, R128): its count is one above the last, it has a block for each slot of
the caption mask, with the cues of the slot's set where it shows, and it is sent at once on an IDLE link and waits
otherwise. -/
def State.sendsCaptions (s t : State) (sc : Idx4) (showing : Bool) : Prop :=
  let x := (s.card.scr sc).captions
  let y := t.card.scr sc
  let frame : CaptionFrame :=
    { screen := sc, count := x.count + 1, showing := showing
      blocks := (Idx4.all.filter (fun k => y.text.selection.captions.getLsbD k.toNat)).map (fun k =>
        { slot := k, lang := y.seq.captionLanguage k
          cues := if showing then (y.text.captions.get k).filterMap (fun n => (s.card.textRecord n).map (fun r =>
            ⟨r.2.id, r.2.region, r.2.style, r.2.text⟩)) else [] }) }
  y.captions = match x.sending with
    | none => { x with count := x.count + 1, sending := some frame }
    | some _ => { x with count := x.count + 1, pending := some frame }

/-- What a reader has of the frame at the head of its queue (R98, R133): the plain bytes of the staged unit, or why
there are none. -/
def unitAtHead (queue : List QueueItem) (staged : Option Staged) : Except UnitCause (List Byte) :=
  match queue, staged with
  | .ref r :: _, some g =>
    if g.ref = r then
      match g.state with
      | .ready bytes => .ok bytes
      | .failed cause => .error cause
      | .reading _ _ => .error .late
    else .error .late
  | .ref _ :: _, none => .error .late
  | _, _ => .error .missing

/-- The SOUND_UNIT faults of a frame whose sound unit came out so (R98): one where there are no bytes. -/
def faultsOf (heard : Except UnitCause (List Byte)) : Nat :=
  match heard with
  | .ok _ => 0
  | .error _ => 1

/-- The staged unit once the head of the queue is taken (R66, R98). -/
def stagedAfter (queue : List QueueItem) (staged : Option Staged) : Option Staged :=
  match queue with
  | .ref r :: _ => if staged.map (·.ref) = some r then none else staged
  | _ => staged

/-- What faults handed over in order do to a screen that is not HELD for one (R165, R166): its counts, the number of
FAULT raisings, and fault hold due. -/
def faultsJudged (latch : Bool) (d : Settings) :
    List (FaultClass × Option FaultCause) → List Nat × Nat × Bool → List Nat × Nat × Bool
  | [], a => a
  | f :: rest, (counts, raisings, due) =>
    let counted := bumpTally counts (tallyIndex f.1 f.2)
    faultsJudged latch d rest (
      if latch then (counts, raisings, due)
      else
        match d.disposition f.1 with
        | .hold => if due then (counted, raisings, due) else (counts, raisings + 1, true)
        | .conceal => (counts, raisings + 1, due)
        | .tally => (counted, raisings, due))

/-- The faults of a presented TITLE frame, in the order in which they are handed over (R121, R98, R131, R133; log
61). -/
def Card.frameFaults (c : Card) (sc : Idx4) (reel frame : Nat) : List (FaultClass × Option FaultCause) :=
  let x := c.scr sc
  let ofUnit := fun (kind : FaultClass) (u : Except UnitCause (List Byte)) =>
    match u with | .error cause => [(kind, some cause.toFault)] | .ok _ => []
  (c.overrunAt sc reel frame).map (fun _ => (.cueDrop, some .overrun)) ++
    ofUnit .soundUnit (unitAtHead x.soundQueue x.sound.staged) ++
    (if x.port.link ≠ .up ∧ x.port.outage = false then [(.linkLost, none)] else []) ++
    ofUnit .pictureUnit (unitAtHead x.pictureQueue x.port.staged)

/-- The picture port at a presented TITLE frame (R129, R131, R133, R135). The head unit is taken, and the counts are
those of the entry, from 0 where it starts. On a link that is UP a PICTURE transfer begins with the plain bytes in
pieces of 65 536 and the overlay, or a FAULT_DARK one with the overlay alone, its frame settled faulted; on another link
no transfer begins, and the frame is settled lost or faulted. -/
def State.sendsFrame (s t : State) (sc : Idx4) (f : Presented) : Prop :=
  let x := s.card.scr sc
  let y := (t.card.scr sc).port
  let p := x.port.settled
  let count := fun (n : Nat) => if x.seq.started then n else 0
  let n := x.port.frameCount + 1
  let sends := fun (kind : TransferKind) (bytes : List Byte) =>
    y.frameCount = n ∧ y.transfer = some {
      kind := kind
      count := n
      frame := some f
      segments := .header sc n kind (some f) bytes.length ::
        ((List.range (ceilDiv bytes.length 65536)).map (fun k =>
            Segment.picture ((bytes.drop (65536 * k)).take 65536)) ++
          [.overlay (s.card.overlayAt (t.card.scr sc).text.overlay f.frame)]) }
  let silent := y.frameCount = x.port.frameCount ∧ y.transfer = none ∧ y.outage = true
  let head := unitAtHead x.pictureQueue x.port.staged
  y.staged = stagedAfter x.pictureQueue x.port.staged ∧ y.delivered = count p.delivered ∧ y.lastDelivered = false ∧
    y.answerWait = p.answerWait ∧
  (x.port.link = .up → y.link = .up ∧ y.outage = x.port.outage ∧ y.lost = count p.lost) ∧
  (∀ bytes, head = .ok bytes → y.faulted = count p.faulted ∧
    (x.port.link = .up → sends .picture bytes) ∧
    (x.port.link ≠ .up → silent ∧ y.lost = count p.lost + 1)) ∧
  (∀ cause, head = .error cause → y.faulted = count p.faulted + 1 ∧
    (x.port.link = .up → sends .faultDark []) ∧
    (x.port.link ≠ .up → silent ∧ y.lost = count p.lost))

/-- A DARK transfer begins at a boundary at which no TITLE frame is presented, on a link that is UP (R133). -/
def State.sendsDark (s t : State) (sc : Idx4) : Prop :=
  let x := (s.card.scr sc).port
  let y := (t.card.scr sc).port
  x.link = .up → y.link = .up ∧ y.frameCount = x.frameCount + 1 ∧ y.transfer = some {
    kind := .dark
    count := x.frameCount + 1
    frame := none
    segments := [.header sc (x.frameCount + 1) .dark none 0] }

end Sys2Proof.Machine

namespace Sys2Proof

/-- The screen a command belongs to: its requests, its boundary and thresholds, its reads, its picture, sound and
caption links. -/
def Instr.screen : Instr → Option Idx4
  | .frameBoundary sc => some sc
  | .starvedOut sc => some sc
  | .pulseTimerExpiry sc _ => some sc
  | .trainingTimeout sc => some sc
  | .noAnswer sc => some sc
  | .linkSamplePeriod sc => some sc
  | .dipDownEnd sc => some sc
  | .dipUpEnd sc => some sc
  | .load sc _ _ _ => some sc
  | .loadComplete sc _ => some sc
  | .start sc _ _ => some sc
  | .hold sc _ _ => some sc
  | .resume sc _ => some sc
  | .continueHeld sc _ => some sc
  | .skip sc _ => some sc
  | .reelJump sc _ _ => some sc
  | .stop sc _ => some sc
  | .unload sc _ _ => some sc
  | .setLevel sc _ _ _ => some sc
  | .setLipsync sc _ _ => some sc
  | .setRoutes sc _ _ => some sc
  | .setLanguages sc _ _ => some sc
  | .keyAnswer sc _ _ _ => some sc
  | .unknownRequest (.screen sc) _ _ => some sc
  | .unitReadStart sc _ _ => some sc
  | .soundUnitReadEnd sc _ => some sc
  | .pictureUnitReadEnd sc _ => some sc
  | .transferSegmentSent sc => some sc
  | .projectorTaken sc _ => some sc
  | .projectorRefused sc _ => some sc
  | .backOffRequest sc => some sc
  | .backOffRelease sc => some sc
  | .linkFound sc => some sc
  | .linkTrained sc => some sc
  | .trainingFailed sc => some sc
  | .signalLost sc => some sc
  | .captionSendComplete sc => some sc
  | _ => none

/-- The commands that bring the events of R170's table, and those of power. -/
def Instr.movesEngine : Instr → Bool
  | .powerOn _ _ _ | .mainPowerLoss | .runRequestSet _ _ | .runRequestClear _ | .engineReset _ _ | .startChecksDone _
  | .stopComplete _ | .busAccessFailure .boothHeader => true
  | _ => false

/-- The commands that may change the booth clock (R79, R80, R90). -/
def Instr.movesClock : Instr → Bool
  | .powerOn held _ _ => !held
  | .clockSet _ _ | .boothClockSecond => true
  | _ => false

/-- The commands that the standby supply or the return of power brings about (R79, R90). -/
def Instr.withoutPower : Instr → Bool
  | .powerOn _ _ _ | .boothClockSecond => true
  | _ => false

/-- The sheet and the request word of a command that is a request (12.3). -/
def Instr.request : Instr → Option (Sheet × RequestWord)
  | .load sc r _ _ => some (.screen sc, r)
  | .start sc r _ => some (.screen sc, r)
  | .hold sc r _ => some (.screen sc, r)
  | .resume sc r => some (.screen sc, r)
  | .continueHeld sc r => some (.screen sc, r)
  | .skip sc r => some (.screen sc, r)
  | .reelJump sc r _ => some (.screen sc, r)
  | .stop sc r => some (.screen sc, r)
  | .unload sc r _ => some (.screen sc, r)
  | .setLevel sc r _ _ => some (.screen sc, r)
  | .setLipsync sc r _ => some (.screen sc, r)
  | .setRoutes sc r _ => some (.screen sc, r)
  | .setLanguages sc r _ => some (.screen sc, r)
  | .keyAnswer sc r _ _ => some (.screen sc, r)
  | .unknownRequest sh r _ => some (sh, r)
  | .permitAdd r _ => some (.key, r)
  | .permitRemove r _ => some (.key, r)
  | .permitWipe r => some (.key, r)
  | .clockSet r _ => some (.key, r)
  | .clearEmergency r => some (.booth, r)
  | _ => none

/-- The order a request brings with it where an event may meet it at its boundary (R47). -/
def Instr.order : Instr → Option Order
  | .load _ _ o _ => some o
  | .start _ _ o => some o
  | .hold _ _ o => some o
  | .unload _ _ o => some o
  | _ => none

/-- What the host wrote before a request is scanned, where the request reads more of booth memory than its word. -/
def Instr.requestWrites : Instr → HostWrites
  | .load _ _ _ host => host
  | .setLevel _ _ _ host => host
  | .setLipsync _ _ host => host
  | .setRoutes _ _ host => host
  | .setLanguages _ _ host => host
  | _ => []

/-- The screen states in which R25's table refuses a request; UNLOAD in DARK and HOLD in HELD are answered DONE. -/
def Instr.refusedIn : Instr → Machine.ScreenState → Bool
  | .load _ _ _ _, .dark | .load _ _ _ _, .finished _ => false
  | .load _ _ _ _, _ => true
  | .hold _ _ _, .dark | .hold _ _ _, .loading | .hold _ _ _, .ready | .hold _ _ _, .finished _ => true
  | .resume _ _, .held .operator | .resume _ _, .held .mark => false
  | .resume _ _, _ => true
  | .continueHeld _ _, .held .fault => false
  | .continueHeld _ _, _ => true
  | .skip _ _, .dark | .skip _ _, .loading | .skip _ _, .finished _ => true
  | .reelJump _ _ _, .dark | .reelJump _ _ _, .loading | .reelJump _ _ _, .ready | .reelJump _ _ _, .finished _ => true
  | .stop _ _, .dark | .stop _ _, .finished _ => true
  | .unload _ _ _, .running | .unload _ _ _, .starved _ => true
  | _, _ => false

end Sys2Proof
end

