-- ==== Sys2Proof/WellFormed.lean ====
section
/-! DEFINITION. What a command must satisfy beyond its types to be one the outside can bring about. -/
namespace Sys2Proof

open Machine

/-- The length in bytes of the argument block of a request word (12.3). -/
def argumentBlockLength : Nat := 248

/-- A permit record whose numbers fit their fields (R71, 12.7). -/
def permitFits (p : Permit) : Bool :=
  decide (p.allowance < 2 ^ 16) && decide (p.perMille < 2 ^ 16) && decide (p.counted < 2 ^ 32) &&
    decide (p.keys.length ≤ 7)

/-- A showing record whose numbers fit their fields (12.8). -/
def recordFits (r : ShowingRecord) : Bool :=
  decide (r.entry < 2 ^ 8) &&
    [r.total, r.needed, r.credited, r.lost, r.pictureFaults, r.soundFaults].all (fun n => decide (n < 2 ^ 32))

/-- The check of a command's operands. -/
def Instr.wf : Instr → Bool
  | .powerOn _ permits records =>
    permits.all (fun x => decide (x.1 < Config.permitPlaces) && permitFits x.2) &&
      records.all (fun x => decide (x.1 < Config.holdingPlaces) && recordFits x.2)
  | .unknownRequest sh _ code => !(sh.knowsCode code.toNat)
  | .permitAdd _ block => block.length == argumentBlockLength
  | .noticeWriteEnd sh kind => kind.onSheet sh
  | .busAccessFailure (.noticeWrite sh kind) => kind.onSheet sh
  | _ => true

end Sys2Proof
end

