-- ==== Sys2Proof/Certificates/Slice0/Obligations.lean ====
section
/-! DEFINITION. The statements about the card. Each names the rules of the manual it formalises; where a statement rests
on a choice of the model, it names the log entry. -/
open Sys2Proof Sys2Proof.Machine

/-! ## The step and its invariants -/

/-- The command at the front of the queue is run with the queue's rest; on an empty queue the block idles (log 29). -/
def Obligations.StepRunsFrontCommand : Prop :=
  (∀ (c : Instr) (cs : List Instr) (s : State),
    step { s with pending := c :: cs } = exec c { s with pending := cs }) ∧
  (∀ s : State, s.pending = [] → step s = .next s)

/-- Every step keeps booth memory in its canonical form, bits 5 to 0 of BOOTH BASE at 0 (R169), and nothing waiting
between steps; and it keeps every notice detail within the 120 bytes that its place has for it (R181, 12.9). -/
def Obligations.StepsKeepCanonicalState : Prop :=
  (∀ s t : State, Mem.wf s.mem → s.baseAligned → s.settled → step s = .next t →
    Mem.wf t.mem ∧ t.baseAligned ∧ t.settled) ∧
  (∀ s t : State, s.detailsFit → step s = .next t → t.detailsFit)

/-- The state after reset has every invariant that the statements name: booth memory in its canonical form, bits 5 to 0
of BOOTH BASE at 0 (R169), nothing waiting, the notice details within their places (R181), the law of the latch (R139),
the retained records whole (R72, R153), the sets of cues within four records (R118), the cue pool's law (R114) and the
pulse timers in rising order. -/
def Obligations.ResetMeetsInvariants : Prop :=
  Mem.wf State.reset.mem ∧ State.reset.baseAligned ∧ State.reset.settled ∧ State.reset.detailsFit ∧
    State.reset.card.auto.latchLaw ∧ State.reset.recordsWhole ∧ State.reset.card.setsFit ∧ State.reset.card.poolLaw ∧
    State.reset.card.auto.timersRise

/-- The law of R139, kept by every command in every state: while the latch is set, every screen's outputs equal the
emergency pattern, and no pulse timer runs. Every command also keeps each screen's pulse timers in rising order, no
output listed twice. -/
def Obligations.LatchKeepsEmergencyPattern : Prop :=
  (∀ (c : Instr) (s t : State), s.card.auto.latchLaw → exec c s = .next t → t.card.auto.latchLaw) ∧
  (∀ (c : Instr) (s t : State), s.card.auto.timersRise → exec c s = .next t → t.card.auto.timersRise)

/-- The four sequencers are independent (chapter 2): a command of one screen leaves every other screen's sequencer as it
was. -/
def Obligations.ScreenCommandsKeepOtherSequencers : Prop :=
  ∀ (c : Instr) (sc sd : Idx4) (s t : State), c.screen = some sc → sd ≠ sc → exec c s = .next t →
    (t.card.scr sd).seq = (s.card.scr sd).seq

/-- Only the events of R170's table and of power move the engine state or replace the header copy; only a second,
CLOCK_SET and a loss of standby supply change the booth clock (R79, R80, R90). -/
def Obligations.EngineAndClockMoveByTheirEvents : Prop :=
  ∀ (c : Instr) (s t : State), exec c s = .next t →
    (c.movesEngine = false → t.card.engine = s.card.engine ∧ t.card.header = s.card.header) ∧
    (c.movesClock = false →
      t.card.permits.clock = s.card.permits.clock ∧ t.card.permits.clockSet = s.card.permits.clockSet)

/-- The retained records stay whole under every command in every state (R72, R152, R153): every permit's and every
showing record's check is right, and the free places of the holding list number at least the ARMED and OPEN records, so
that every one of them can be closed; the reset state is so. A reservation keeps to the allowance (R81 to R84): a permit
chosen for arming has one more showing to give and reserves it; a release and a credit of a record that is referenced
keep counted and pending within the allowance. -/
def Obligations.RetainedRecordsStayWhole : Prop :=
  State.reset.recordsWhole ∧
  (∀ (c : Instr) (s t : State), s.recordsWhole → exec c s = .next t → t.recordsWhole) ∧
  (∀ (c : Card) (sc : Idx4) (ti : Title) (place : Nat) (p : Permit), c.permits.choose sc ti = .ok (place, p) →
    (p.allowance = 0 ∨ p.counted + p.pending < p.allowance) ∧
    FMap.find (c.reserve place p).permits.table place = some { p with pending := p.pending + 1, users := p.users + 1 } ∧
    ({ p with pending := p.pending + 1, users := p.users + 1 } : Permit).withinAllowance) ∧
  (∀ (c : Card) (id : U32) (place : Nat) (p : Permit), c.permits.byId id = some (place, p) → p.state ≠ .retiring →
    0 < p.pending → p.withinAllowance →
    (∃ p', FMap.find (c.release (some id)).permits.table place = some p' ∧ p'.pending = p.pending - 1 ∧
      p'.users = p.users - 1 ∧ p'.counted = p.counted ∧ p'.withinAllowance) ∧
    (∃ p', FMap.find (c.creditPermit (some id)).permits.table place = some p' ∧ p'.pending = p.pending - 1 ∧
      p'.users = p.users ∧ p'.counted = min 4294967295 (p.counted + 1) ∧ p'.withinAllowance ∧ p'.checkHolds = true)) ∧
  (∀ (c : Card) (id : U32) (place : Nat) (p : Permit), c.permits.byId id = some (place, p) → p.state = .retiring →
    p.users = 1 → FMap.Sorted c.permits.table →
    FMap.find (c.release (some id)).permits.table place = none)

/-! ## Power and the register window -/

/-- POWER_ON after a loss of standby supply gives the reset state (R90): the registers 0 (R169), the engine OFF, every
screen DARK with the values of R21 and R11, the links DOWN (R129), the sound renderer as R92, the outputs off (R138),
the pool free (R113), the permit table, the holding list and the clock empty and unset. Not the manual's but the model's
are RECORD_LOST with 0 records (log 13), the read data of the window (log 6), the sample count and period of a link (log
24), and the due mark of the booth report, which a change of its fields sets (log 27), and the empty view of the page
table (log 80). -/
def Obligations.PowerOnWithoutStandby : Prop :=
  (∀ (permits : FMap Permit) (records : FMap ShowingRecord) (s : State),
    exec (.powerOn false permits records) s = .next { State.reset with
      pending := s.pending
      mem := s.mem
      card := { State.reset.card with
        boothDue := s.card.boothDue || decide (State.reset.card.boothReportFields ≠ s.card.boothReportFields) } }) ∧
  State.reset.readRegister .ident = 0x10440 ∧ State.reset.readRegister .control = 0 ∧
  State.reset.readRegister .boothBase = 0 ∧ State.reset.readRegister .attention = 0 ∧
  State.reset.card.engine = .off ∧ State.reset.card.permits.table = [] ∧ State.reset.card.permits.clockSet = false ∧
  State.reset.card.counter.holding = [] ∧ State.reset.card.counter.nextNumber = 0 ∧
  State.reset.card.owedLost = some 0 ∧ State.reset.card.pool.free = List.range 512 ∧
  (∀ sc : Idx4, State.reset.card.auto.outputs.get sc = 0 ∧
    (State.reset.card.scr sc).seq.state = .dark ∧ (State.reset.card.scr sc).seq.current = none ∧
    (State.reset.card.scr sc).seq.armed = none ∧ (State.reset.card.scr sc).seq.position = none ∧
    (State.reset.card.scr sc).seq.loadNumber = none ∧ (State.reset.card.scr sc).seq.settings.preroll = 24 ∧
    (State.reset.card.scr sc).seq.settings.recovery = 12 ∧ (State.reset.card.scr sc).seq.settings.starvation = 10 ∧
    (State.reset.card.scr sc).seq.settings.level = 16384 ∧ (State.reset.card.scr sc).port.link = .down ∧
    (State.reset.card.scr sc).port.frameCount = 0 ∧ (State.reset.card.scr sc).sound.master = 0 ∧
    (State.reset.card.scr sc).sound.target = 0 ∧ (State.reset.card.scr sc).sound.linkRate = 48000 ∧
    (State.reset.card.scr sc).tallies = List.replicate 17 0)

/-- Power with the standby supply held (R90, R162, R71, R79, R148). POWER_ON: registers and working items take their
power-on values, the clock and the record numbers are kept. Every permit record and every showing record, as a
disturbance left it (log 7), is examined by its check: a permit whose check fails is DAMAGED with a fresh check, a
RETIRING one goes; of the showing records those whose check fails go and RECORD_LOST is owed with their number, OPEN
ones close as INTERRUPTED, ARMED ones go, CLOSED ones stay; every record left has a right check. MAIN_POWER_LOSS leaves
what the standby supply holds; a card without main power takes no command but POWER_ON and the clock's second (log 1 and
26). -/
def Obligations.PowerOnKeepsRetainedState : Prop :=
  (∀ (permits : FMap Permit) (records : FMap ShowingRecord) (s : State), FMap.Sorted s.card.permits.table →
    (let left := fun (k : Nat) (r : ShowingRecord) => (FMap.find records k).getD r
     let lost := (s.card.counter.holding.zipIdx.filter (fun x => !(left x.2 x.1).checkHolds)).length
     ∃ t, exec (.powerOn true permits records) s = .next t ∧ t.powered = true ∧ t.window = {} ∧ t.scan = {} ∧
      t.mem = s.mem ∧ t.pending = s.pending ∧ t.card.engine = .off ∧ t.card.header = none ∧
      t.card.screens = Quad.const {} ∧ t.card.auto = {} ∧ t.card.permits.clock = s.card.permits.clock ∧
      t.card.permits.clockSet = s.card.permits.clockSet ∧ t.card.counter.nextNumber = s.card.counter.nextNumber ∧
      (∀ i p, FMap.find s.card.permits.table i = some p →
        (let d := (FMap.find permits i).getD p
         FMap.find t.card.permits.table i =
          if d.checkHolds then
            if d.state = .retiring then none else some { d with pending := 0, users := 0 }
          else some ({ d with state := .damaged, pending := 0, users := 0 } : Permit).withCheck)) ∧
      (∀ i, FMap.find s.card.permits.table i = none → FMap.find t.card.permits.table i = none) ∧
      (∀ k r, s.card.counter.holding[k]? = some r → (left k r).checkHolds = true →
        ((left k r).state = .closed → left k r ∈ t.card.counter.holding) ∧
        ((left k r).state = .opened →
          ({ left k r with
            state := .closed, endCause := some .interrupted, endTime := none } : ShowingRecord).withCheck ∈
            t.card.counter.holding)) ∧
      (∀ r ∈ t.card.counter.holding, r.state = .closed ∧ r.checkHolds = true) ∧
      (∀ x ∈ t.card.permits.table, x.2.checkHolds = true) ∧
      t.card.owedLost = (if lost = 0 then none else some lost))) ∧
  (∀ s : State, s.powered = true →
    ∃ t, exec .mainPowerLoss s = .next t ∧ t.powered = false ∧ t.card.permits = s.card.permits ∧
      t.card.counter.holding = s.card.counter.holding ∧ t.card.counter.nextNumber = s.card.counter.nextNumber ∧
      t.mem = s.mem ∧ t.pending = s.pending) ∧
  (∀ (c : Instr) (s : State), s.powered = false → c.withoutPower = false → exec c s = .next s)

/-- A CONTROL write that leaves the run request 1 (R170): OFF and FAULTED go to STARTING, with the pattern copies
replaced from the booth header (R138) and no failed try behind the reads of the start (R183); a write in FAULTED that
changes the enables, and any other state, changes the register alone. That the bytes read are those the host has written
with the command is the model's (log 3). -/
def Obligations.RunRequestSetStarts : Prop :=
  ∀ (enables : Option (BitVec 6)) (host : HostWrites) (s : State), s.powered = true →
    ∃ t, exec (.runRequestSet enables host) s = .next t ∧ t.mem = s.mem.hostStore host ∧ t.scan = s.scan ∧
      t.pending = s.pending ∧ t.powered = true ∧
      t.window.runRequest = true ∧ t.window.enables = enables.getD s.window.enables ∧
      t.window.boothBase = s.window.boothBase ∧ t.window.attention = s.window.attention ∧
      (let bytes := t.mem.readBytes s.window.boothBase.toNat 768
       let starting := { s.card with
         engine := .starting
         bus := []
         auto := s.card.auto.copyPatterns (safePatternsOf bytes) (emergencyPatternsOf bytes) }
       match s.card.engine with
       | .off => t.card = starting ∧ t.window.faultCode = s.window.faultCode ∧
           t.window.faultDetail = s.window.faultDetail
       | .faulted =>
         if enables.getD s.window.enables = s.window.enables then
           t.card = starting ∧ t.window.faultCode = 0 ∧ t.window.faultDetail = 0
         else t.card = s.card ∧ t.window.faultCode = s.window.faultCode ∧ t.window.faultDetail = s.window.faultDetail
       | _ => t.card = s.card ∧ t.window.faultCode = s.window.faultCode ∧ t.window.faultDetail = s.window.faultDetail)

/-- A CONTROL write that leaves the run request 0 (R170, R45, R139): STARTING and FAULTED go to OFF; RUNNING goes to
STOPPING, where every screen that is not DARK is FINISHED with cause ENGINE_STOP, no LOAD is in progress, and the
outputs take the safe pattern, or the emergency pattern while the latch is set. So it is in whatever order the screens
take their turns (R83), which the write carries (log 48). -/
def Obligations.RunRequestClearStops : Prop :=
  ∀ (write : StopWrite) (s : State), s.powered = true →
    ∃ t, exec (.runRequestClear write) s = .next t ∧ t.window.runRequest = false ∧
      t.window.enables = write.enables.getD s.window.enables ∧ t.window.boothBase = s.window.boothBase ∧
      t.pending = s.pending ∧ t.powered = true ∧
      (match s.card.engine with
       | .starting => t.card = { s.card with engine := .off, bus := [] } ∧ t.mem = s.mem ∧ t.scan = s.scan
       | .faulted => t.card = { s.card with engine := .off } ∧ t.mem = s.mem ∧ t.scan = s.scan ∧
           t.window.faultCode = 0 ∧ t.window.faultDetail = 0
       | .running => t.card.engine = .stopping ∧ t.card.header = s.card.header ∧
           t.card.auto.outputs = (if s.card.auto.latch then s.card.auto.emergency else s.card.auto.safe) ∧
           t.card.auto.timers = Quad.const [] ∧ t.card.permits.clock = s.card.permits.clock ∧
           (∀ sc, (t.card.scr sc).seq.load = none ∧
             ((s.card.scr sc).seq.state = .dark → (t.card.scr sc).seq.state = .dark) ∧
             ((s.card.scr sc).seq.state ≠ .dark → (t.card.scr sc).seq.state = .finished .engineStop) ∧
             ((s.card.scr sc).seq.state ≠ .dark → (∀ k, (s.card.scr sc).seq.state ≠ .finished k) →
               (t.card.scr sc).seq.inProgress = false ∧ (t.card.scr sc).seq.armed = none))
       | _ => t.card = s.card ∧ t.mem = s.mem ∧ t.scan = s.scan)

/-- An engine reset (R169, R174, R46, R92, R139, R161): the run request, the fault code and detail and ATTENTION are
cleared, the enables and BOOTH BASE kept; every screen takes its reset values but for the sample count, period and rate
of its link; the outputs take the rest pattern; OPEN records close as ENGINE_RESET with a new check, ARMED records go;
booth memory is not written. That the reset write's own enables are not taken is the model's (log 18), and so are the
kept count and period of the link (log 24) and the silence of what is left of its frame period, the feed being none (log
51). -/
def Obligations.EngineResetClears : Prop :=
  ∀ (run : Bool) (enables : Option (BitVec 6)) (s : State), s.powered = true →
    ∃ t, exec (.engineReset run enables) s = .next t ∧
      t.window = { s.window with runRequest := false, faultCode := 0, faultDetail := 0, attention := 0 } ∧
      t.mem = s.mem ∧ t.scan = {} ∧ t.pending = s.pending ∧ t.powered = true ∧ t.card.engine = .off ∧
      t.card.header = s.card.header ∧ t.card.slots = [] ∧ t.card.directory = [] ∧ t.card.fetch = none ∧
      t.card.auto = { s.card.auto with
        outputs := if s.card.auto.latch then s.card.auto.emergency else s.card.auto.safe
        timers := Quad.const [], inputs := 0 } ∧
      (∀ sc, t.card.scr sc = { sound := {
        linkRate := (s.card.scr sc).sound.linkRate
        count := (s.card.scr sc).sound.count
        period := (s.card.scr sc).sound.period } }) ∧
      t.card.permits.clock = s.card.permits.clock ∧ t.card.permits.clockSet = s.card.permits.clockSet ∧
      (∀ x ∈ t.card.permits.table, x.2.pending = 0 ∧ x.2.users = 0 ∧ x.2.state ≠ .retiring) ∧
      t.card.counter.nextNumber = s.card.counter.nextNumber ∧
      t.card.counter.holding = (s.card.counter.holding.filter (fun r => r.state != .armed)).map (fun r =>
        if r.state = .opened then
          ({ r with state := .closed, endCause := some .engineReset
                    endTime := if s.card.permits.clockSet then some s.card.permits.clock
                      else none } : ShowingRecord).withCheck
        else r) ∧
      t.card.counter.plays = Quad.const none ∧ t.card.counter.current = none ∧ t.card.counter.writing = none

/-- The register window (R169, R182). Writes that move no state of the engine: the attention enables; BOOTH BASE, taken
in OFF and FAULTED alone, with the bytes covered and bits 5 to 0 at 0; the ignored writes. That a write of the enables
moves no engine state, in FAULTED with the run request 1 too, where R170's row could be read otherwise, is the model's
(log 19). A read of ATTENTION returns and clears the causes in the bytes read; the line then falls. -/
def Obligations.RegisterWritesTakeTheirBits : Prop :=
  (∀ s : State, s.powered = true →
    (∀ enables, exec (.attentionEnablesWrite enables) s =
      .next { s with window := { s.window with enables := enables } }) ∧
    (∀ value cover, ∃ t, exec (.boothBaseWrite value cover) s = .next t ∧
      t = { s with window := { s.window with boothBase := t.window.boothBase } } ∧
      (∀ i : Nat, i < 64 → t.window.boothBase.getLsbD i =
        if s.card.engine = .off ∨ s.card.engine = .faulted then
          decide (6 ≤ i) && (if cover.getLsbD (i / 8) then value.getLsbD i else s.window.boothBase.getLsbD i)
        else s.window.boothBase.getLsbD i)) ∧
    (∀ target value, exec (.ignoredRegisterWrite target value) s = .next s)) ∧
  (∀ (cover : BitVec 8) (s : State), s.powered = true →
    ∃ t, exec (.attentionRead cover) s = .next t ∧
      t = { s with window := { s.window with attention := t.window.attention, readData := t.window.readData } } ∧
      (cover.getLsbD 0 = true → t.window.attention = 0 ∧ t.window.readData = s.window.attention.setWidth 64 ∧
        t.window.line = false) ∧
      (cover.getLsbD 0 = false → t.window.attention = s.window.attention ∧ t.window.readData = 0 ∧
        t.window.line = s.window.line))

/-- START_CHECKS_DONE (R171, R172, R138). Where a check fails: FAULTED with the first failure's code and detail, and
nothing installed. Where every check passes: RUNNING, with the header copied, the input sample inactive, and every
scanned sheet seeded, its last taken number that of its answer word and its raised counts those of its notices, and
what is owed is raised (R90, R91, R144, R162). The checks are made in R171's order: signature,
version, number of areas, each area; the pool, its slots, its range and ring 1's rights; the booth sheet, the key sheet
and each enabled screen's sheet by number, its offset, its range, its ring's rights (12.3), a screen's ring and rate. A
header that passes them all starts. That a code for which R171 names no item has detail 0 is the model's (log 62). R171
reads the header on entering STARTING; that it is read here, after the host's writes, is the model's (log 12). -/
def Obligations.StartChecksDecide : Prop :=
  (∀ (host : HostWrites) (s : State) (f : StartFault), s.powered = true → s.card.engine = .starting →
    startCheck ((s.mem.hostStore host).readBytes s.window.boothBase.toNat 768) = some f →
    exec (.startChecksDone host) s = .next { s with
      mem := s.mem.hostStore host
      window := { s.window with faultCode := f.code, faultDetail := f.detail }
      card := { s.card with engine := .faulted, bus := [] } }) ∧
  (∀ (host : HostWrites) (s : State), s.powered = true → s.card.engine = .starting → s.card.bus = [] →
    startCheck ((s.mem.hostStore host).readBytes s.window.boothBase.toNat 768) = none →
    ∃ t h, exec (.startChecksDone host) s = .next t ∧
      h = headerOf ((s.mem.hostStore host).readBytes s.window.boothBase.toNat 768) ∧
      t.card.engine = .running ∧ t.card.header = some h ∧ t.card.slots.length = h.slotCount ∧
      t.card.directory = [] ∧ t.card.fetch = none ∧ t.card.auto.inputs = 0 ∧
      t.card.auto.outputs = s.card.auto.outputs ∧ t.card.permits = s.card.permits ∧
      t.pending = s.pending ∧ t.powered = true ∧ t.window.runRequest = s.window.runRequest ∧
      (∀ sh, h.scans sh = true → (t.scan.get sh).seeded = true ∧
        (t.scan.get sh).lastTaken =
          BitVec.ofNat 32 ((s.mem.hostStore host).field (h.answerAddr sh + 28) 4)) ∧
      (s.settled →
        (let kept := fun (sh : Sheet) (k : NoticeKind) =>
           BitVec.ofNat 32 ((s.mem.hostStore host).field (h.noticeAddr sh k + 124) 4)
         t.raised .booth .emergency = kept .booth .emergency + (if s.card.auto.owed = none then 0 else 1) ∧
         t.raised .booth .recordLost = kept .booth .recordLost + (if s.card.owedLost = none then 0 else 1) ∧
         t.raised .key .permitChange = kept .key .permitChange + BitVec.ofNat 32 s.card.owedPermits.length ∧
         t.card.auto.owed = none ∧ t.card.owedLost = none ∧ t.card.owedPermits = []))) ∧
  (∀ bs : List Byte,
    (let h := headerOf bs
     let signed := slice bs 0 8 = [0x50, 0x4C, 0x34, 0x34, 0x30, 0x42, 0x54, 0x48]
     let version := fieldAt bs 8 2 = 1
     let counted := 1 ≤ fieldAt bs 10 1 ∧ fieldAt bs 10 1 ≤ 16
     let fits := fun (a : Area) => 0 < a.length ∧ a.length % 64 = 0 ∧ a.length ≤ 2 ^ 32 ∧ a.base % 64 = 0 ∧
       a.base + a.length ≤ 2 ^ 64
     let pool := 8 ≤ h.slotCount ∧ h.slotCount ≤ 256 ∧ ∃ a, h.areas[h.pool.area]? = some a ∧
       h.pool.offset + 64 * h.slotCount ≤ a.length ∧ a.r1Read = true ∧ a.r1Write = true
     let right := fun (ring : Ring) (one three : Bool) =>
       match ring with | .r0 => true | .r1 => one | .r3 => three
     let within := fun (l : Locator) (length : Nat) (ring : Ring) => l.offset % 64 = 0 ∧
       ∃ a, h.areas[l.area]? = some a ∧ l.offset + length ≤ a.length ∧ right ring a.r1Read a.r3Read = true ∧
         right ring a.r1Write a.r3Write = true
     let good := fun (sh : Sheet) =>
       match sh with
       | .booth => within h.boothSheet 1696 .r1
       | .key => within h.keySheet 2432 .r0
       | .screen sc => (let e := h.screens.get sc
           within e.sheet 10432 e.ring ∧ e.ring ≠ .r0 ∧ (e.linkRate = 48000 ∨ e.linkRate = 96000))
     let sheets := [Sheet.booth, .key] ++
       ([Idx4.i0, .i1, .i2, .i3].filter (fun sc => (h.screens.get sc).enabled)).map Sheet.screen
     (¬ signed → startCheck bs = some ⟨1, 0⟩) ∧
     (signed → ¬ version → startCheck bs = some ⟨2, 0⟩) ∧
     (signed → version → ¬ counted → startCheck bs = some ⟨3, 255⟩) ∧
     (signed → version → counted →
       (∀ (i : Nat) (a : Area), h.areas[i]? = some a → ¬ fits a →
         (∀ (j : Nat) (b : Area), j < i → h.areas[j]? = some b → fits b) → startCheck bs = some ⟨3, i⟩) ∧
       ((∀ a ∈ h.areas, fits a) →
         (¬ pool → startCheck bs = some ⟨5, 0⟩) ∧
         (pool → (∀ sh ∈ sheets, good sh) → startCheck bs = none) ∧
         (pool → ∀ before sh after, sheets = before ++ sh :: after → (∀ x ∈ before, good x) → ¬ good sh →
           startCheck bs = some ⟨4, match sh with | .screen sc => sc.toNat | .booth => 4 | .key => 5⟩)))))

/-- STOP_COMPLETE where the four parts of R173 are complete: OFF, then STARTING at once if the run request is 1 (R170);
every screen is DARK with its settings copy kept, the scanner's items are discarded, ATTENTION and the outputs stand.
The sound renderer applies a pending delay, and its master, target, step and dip take the values of R92; that what is
left of the frame period is fed silence is the model's (log 51). The caption port goes on sending (R128). A STARTING
entered at once copies the patterns from the header, and with the latch set the outputs take the new emergency pattern
(R138). That the back-off goes at OFF on a link that is not UP too is the model's (log 58). -/
def Obligations.StopCompleteTurnsOff : Prop :=
  ∀ (host : HostWrites) (s : State), s.powered = true → s.stopDone = true →
    ∃ t, exec (.stopComplete host) s = .next t ∧ t.mem = s.mem.hostStore host ∧ t.window = s.window ∧ t.scan = {} ∧
      t.pending = s.pending ∧ t.powered = true ∧
      t.card.engine = (if s.window.runRequest then .starting else .off) ∧
      (s.window.runRequest = false → t.card.auto = { s.card.auto with inputs := 0 }) ∧
      (s.window.runRequest = true →
        (let pattern := fun (off : Nat) => (Quad.mk 0 1 2 3).map (fun k =>
           BitVec.ofNat 8 (t.mem.field (s.window.boothBase.toNat + off + k) 1))
         t.card.auto = { s.card.auto with
           inputs := 0, safe := pattern 192, emergency := pattern 196
           outputs := if s.card.auto.latch then pattern 196 else s.card.auto.outputs
           timers := if s.card.auto.latch then Quad.const [] else s.card.auto.timers })) ∧
      t.card.slots = [] ∧ t.card.directory = [] ∧ t.card.permits = s.card.permits ∧
      t.card.counter.holding = s.card.counter.holding ∧ t.card.counter.nextNumber = s.card.counter.nextNumber ∧
      (∀ sc, (t.card.scr sc).seq = { settings := (s.card.scr sc).seq.settings } ∧
        (t.card.scr sc).port = { frameCount := (s.card.scr sc).port.frameCount } ∧
        (t.card.scr sc).tallies = List.replicate 17 0 ∧ (t.card.scr sc).pictureQueue = [] ∧
        (t.card.scr sc).soundQueue = [] ∧ (t.card.scr sc).textKeys = [] ∧
        (t.card.scr sc).captions = (s.card.scr sc).captions ∧
        (let x := (s.card.scr sc).sound
         (t.card.scr sc).sound = { x with
           delay := x.pendingDelay.getD x.delay, pendingDelay := none, master := 0, target := 0, step := 1
           dip := .none, staged := none, feed := none }))

/-! ## Ticks, boundaries and sample periods -/

/-- A booth tick whose sample sets no latch (R143, R144, R176): the emergency sample is replaced in every engine state,
the input sample while the engine works; no sequencer moves. While the engine works the booth report of a seeded booth
sheet is handed over once where one of its fields has changed since the last one, and then no report is due (R180; that
a change is marked when it is made is log 27). An EMERGENCY that was owed is raised, once, by a tick whose booth sheet
is seeded, or that seeds it with every notice detail within its place (StepsKeepCanonicalState keeps them so), and is
then no longer owed (R144, R172). INPUT_CHANGE is raised once where an input differs
from the sample before, its detail giving the eight new values and which changed (R143). Every scanned sheet on which a
raised count differs from its seen count has its cause set (R181). Outside work booth memory is not written. -/
def Obligations.BoothTickSamplesInputs : Prop :=
  ∀ (inputs : BitVec 8) (emergency : EmergencySample) (host : HostWrites) (s : State), s.powered = true →
    (emergency.active = true → s.card.auto.latch = true) →
    ∃ t, exec (.boothTick inputs emergency host) s = .next t ∧
      t.card.auto = { s.card.auto with
        emergencySample := emergency.active
        inputs := if s.card.active = true ∧ s.card.header ≠ none then inputs else s.card.auto.inputs
        owed := if s.card.active = true ∧ s.card.header ≠ none ∧ (t.scan.get .booth).seeded = true then none
          else s.card.auto.owed } ∧
      t.card.engine = s.card.engine ∧ t.card.header = s.card.header ∧ t.card.permits.clock = s.card.permits.clock ∧
      t.card.permits.clockSet = s.card.permits.clockSet ∧
      (∀ sc, (t.card.scr sc).seq = (s.card.scr sc).seq) ∧ s.sameOutside t ∧
      (s.card.active = true → s.card.header ≠ none → s.settled → (s.scan.get .booth).seeded = true →
        t.card.boothDue = false ∧ (t.scan.get .booth).taken = false ∧ (t.scan.get .key).taken = false ∧
        (t.scan.get .booth).reportSeq = (s.scan.get .booth).reportSeq +
          (if s.card.boothDue = true ∨ emergency.active ≠ s.card.auto.emergencySample ∨
              inputs ≠ s.card.auto.inputs then 1
           else 0) ∧
        t.raised .booth .inputChange = s.raised .booth .inputChange +
          (if inputs = s.card.auto.inputs then 0 else 1) ∧
        t.raised .booth .emergency = s.raised .booth .emergency + (if s.card.auto.owed = none then 0 else 1) ∧
        (inputs ≠ s.card.auto.inputs →
          ((t.scan.get .booth).place .inputChange).detail.take 2 = [inputs, s.card.auto.inputs ^^^ inputs])) ∧
      (∀ h, s.card.active = true → s.card.header = some h → s.settled → s.detailsFit →
        (s.scan.get .booth).seeded = false → (t.scan.get .booth).seeded = true →
        t.raised .booth .emergency =
          BitVec.ofNat 32 ((s.mem.hostStore host).field (h.noticeAddr .booth .emergency + 124) 4) +
            s.raised .booth .emergency + (if s.card.auto.owed = none then 0 else 1)) ∧
      (∀ h, s.card.active = true → s.card.header = some h →
        (∀ sh, h.scans sh = true → (s.scan.get sh).seeded = true) →
        ∀ sh k, h.scans sh = true → k.onSheet sh = true → s.card.busFailed (.seenCounts sh) = false →
          s.raised sh k ≠ BitVec.ofNat 32
            ((s.mem.hostStore host).field (h.sheetAddr sh + (sheetLayout sh).seen + 4 * k.place) 4) →
          t.window.attention &&& sh.causeBit = sh.causeBit) ∧
      (s.card.active = false → s.settled → t.mem = s.mem.hostStore host ∧ t.scan = s.scan)

/-- A booth tick that finds the emergency input active while the latch is clear (R144, R139, R44, R104): the latch is
set; every screen's outputs take the emergency pattern and every pulse timer is cancelled; every screen that is not DARK
is FINISHED with cause EMERGENCY, but for one whose LOAD is in progress, which is marked to finish at its end (R18, log
17); every fader's target is 0; EMERGENCY is raised once while the engine works and owed in the other states. So it is
in whatever order the screens take their turns (R83), which the sample carries (log 48). -/
def Obligations.EmergencyInputSetsLatch : Prop :=
  ∀ (inputs : BitVec 8) (turns : List Idx4) (host : HostWrites) (s : State), s.powered = true →
    s.card.auto.latch = false →
    ∃ t, exec (.boothTick inputs ⟨true, turns⟩ host) s = .next t ∧
      t.card.auto.latch = true ∧ t.card.auto.emergencySample = true ∧ t.card.auto.emergency = s.card.auto.emergency ∧
      t.card.auto.safe = s.card.auto.safe ∧ t.card.auto.outputs = s.card.auto.emergency ∧
      t.card.auto.timers = Quad.const [] ∧
      t.card.auto.owed = (if s.card.active then none else some ⟨s.card.boothTime⟩) ∧
      (s.card.active = true → s.settled → (s.scan.get .booth).seeded = true →
        t.raised .booth .emergency = s.raised .booth .emergency + 1) ∧
      t.card.engine = s.card.engine ∧ t.card.permits.clock = s.card.permits.clock ∧ s.sameOutside t ∧
      ∀ sc, (t.card.scr sc).sound.target = 0 ∧
        (let q := (s.card.scr sc).seq
         let q' := (t.card.scr sc).seq
         (∀ l, q.load = some l → q' = { q with load := some { l with latched := true } }) ∧
         (q.load = none → q.state = .dark → q' = q) ∧
         (q.load = none → q.state ≠ .dark → q'.state = .finished .emergency) ∧
         (q.load = none → q.state ≠ .dark → (∀ k, q.state ≠ .finished k) →
           q'.inProgress = false ∧ q'.faultHoldDue = false ∧ q'.startWhenReady = false ∧ q'.armed = none))

/-- A frame boundary of a screen whose blocks do not act (R23, R93, R127): in OFF, STARTING and FAULTED the sample count
begins afresh, a header rate of 48 000 or 96 000 comes into force (log 32), the frame period is the samples per frame of
that rate, a pending language selection and a waiting route list are put into use (R126, R101; that these boundaries
count as the first after the handover is log 52), and nothing else moves but the fader's target; in RUNNING and STOPPING
a screen that was not enabled builds a caption frame beside that (log 28), by the selection just applied, which carries
the count after its own rise (log 57). -/
def Obligations.BoundaryOutsideWork : Prop :=
  ∀ (sc : Idx4) (s : State), s.powered = true → s.settled →
    (s.card.active = false ∨ s.card.enabled sc = false) →
    ∃ t, exec (.frameBoundary sc) s = .next t ∧ t.mem = s.mem ∧
      t.scan = s.scan.set (.screen sc) { s.scan.get (.screen sc) with taken := false } ∧
      ({ s.card with pool := t.card.pool } : Card).onlyScreen sc t.card ∧ s.sameOutside t ∧
      ((s.card.scr sc).text.pendingSelection = none ∨ (∀ x ∈ s.card.pool.held, x.2.owner ≠ sc) →
        t.card.pool = s.card.pool) ∧
      (let x := s.card.scr sc
       let y := t.card.scr sc
       let rate := match s.card.header with
         | some h =>
           if (h.screens.get sc).linkRate = 48000 ∨ (h.screens.get sc).linkRate = 96000 then
             (h.screens.get sc).linkRate
           else x.sound.linkRate
         | none => x.sound.linkRate
       y = { x with sound := y.sound, captions := y.captions, text := y.text } ∧
         y.sound = { x.sound with
           routes := x.sound.newRoutes.getD x.sound.routes, newRoutes := none, fadeOut := false
           count := 0, linkRate := rate, period := rate / x.seq.frameRate
           target := y.sound.target, step := y.sound.step } ∧
         y.text.selection = x.text.pendingSelection.getD x.text.selection ∧ y.text.pendingSelection = none ∧
         (x.text.pendingSelection = none ∨ x.text.queue = [] ∧ x.text.overlay = [] ∧ x.text.captions = Quad.const [] →
           y.text = { x.text with selection := y.text.selection, pendingSelection := none }) ∧
         (s.card.active = false → y.captions = x.captions) ∧
         (s.card.active = true → s.card.header ≠ none →
           y.captions.count = x.captions.count + 1 ∧
             (x.captions.sending = none → ∃ f, y.captions.sending = some f ∧ f.count = x.captions.count + 1 ∧
               f.showing = false ∧ (∀ k, (∃ b ∈ f.blocks, b.slot = k) ↔ y.text.selection.captionsSlot k = true) ∧
               y.captions.pending = x.captions.pending) ∧
             (x.captions.sending ≠ none → y.captions.sending = x.captions.sending ∧
               ∃ f, y.captions.pending = some f ∧ f.count = x.captions.count + 1 ∧ f.showing = false)))

/-- A frame boundary of a RUNNING screen whose successor is settled, at which no request was handled (R24, R31, R33,
R34, R35, R39, R166). A TITLE frame in progress completes and the next frame of its reel, or the first of the next reel,
is presented where both queues hold it; at a reel end FAULT_TALLY is raised if a count is above 0, the cue records of
the reel are released, and the sets start empty (R124). The last frame's
completion ends the entry, PASSED with ENTRY_ENDED: a TITLE's record is CLOSED, COMPLETE, and an uncredited reservation
released (R155, R84); an armed INTERVAL or TITLE becomes current and is handled at once; with nothing armed the screen
is FINISHED, COMPLETE. A MARK not yet reached is reached: with HOLD_AT_MARK the screen is HELD, of kind MARK; without it
the armed INTERVAL or TITLE follows at once, and with nothing armed the screen is FINISHED, COMPLETE. A MARK with
HOLD_AT_MARK brought by an entry end holds too, with kind FAULT where a fault hold was due there (log 16). -/
def Obligations.BoundaryMovesShow : Prop :=
  ∀ (sc : Idx4) (h : Header) (s : State) (i : Nat) (p : Position), s.acts sc h → s.card.linkStays sc →
    (let x := s.card.scr sc
     let q := x.seq
     q.state = .running → q.handled = false → q.dueLater = false → q.dueEnded = false → q.settled = true →
     q.current = some i → q.position = some p → i < q.list.length →
     (let heads := fun (r f : Nat) => headHolds x.pictureQueue i r f = true ∧ headHolds x.soundQueue i r f = true
      let whole := fun (j : Nat) => headHolds x.pictureQueue j 0 0 = true ∧ headHolds x.soundQueue j 0 0 = true
      let rest := fun (j : Nat) => headHolds (x.pictureQueue.filter (fun it => it.entry != i)) j 0 0 = true ∧
        headHolds (x.soundQueue.filter (fun it => it.entry != i)) j 0 0 = true
      let ended := fun (t : State) => (((t.card.scr sc).seq.list[i]?).map (·.status) = some .passed) ∧
        t.raised (.screen sc) .entryEnded = s.raised (.screen sc) .entryEnded + 1
      let reached := fun (t : State) => t.raised (.screen sc) .markReached = s.raised (.screen sc) .markReached + 1
      let ends := q.advance = .entryEnd ∧ q.started = true ∧ q.atMark = false
      ∃ t, exec (.frameBoundary sc) s = .next t ∧
        (∀ sd, sd ≠ sc → (t.card.scr sd).seq = (s.card.scr sd).seq) ∧ t.card.engine = s.card.engine ∧ s.sameOutside t ∧
        (let q' := (t.card.scr sc).seq
         let y := (t.card.scr sc).text
         (∀ ti rl, q.title = some ti → ti.reels[p.reel]? = some rl → q.inProgress = true → q.faultHoldDue = false →
           (p.frame + 1 < rl.duration → heads p.reel (p.frame + 1) →
             q'.state = .running ∧ q'.current = some i ∧ q'.position = some ⟨p.reel, p.frame + 1⟩ ∧
             q'.inProgress = true ∧ q'.started = true ∧ (t.card.scr sc).pictureQueue = popFrame x.pictureQueue ∧
             (t.card.scr sc).soundQueue = popFrame x.soundQueue) ∧
           (rl.duration ≤ p.frame + 1 → p.reel + 1 < ti.reels.length → heads (p.reel + 1) 0 →
             q'.state = .running ∧ q'.current = some i ∧ q'.position = some ⟨p.reel + 1, 0⟩ ∧ q'.inProgress = true ∧
             t.raised (.screen sc) .faultTally = s.raised (.screen sc) .faultTally +
               (if x.tallies.all (· == 0) then 0 else 1) ∧
             (∀ n, n ∈ y.overlay ∨ (∃ slot, n ∈ y.captions.get slot) → n ∈ x.text.queue ∧
               ∃ r, FMap.find s.card.pool.held n = some r ∧ r.reel = p.reel + 1) ∧
             (∀ n r, FMap.find s.card.pool.held n = some r → r.owner = sc → r.reel = p.reel →
               n ∉ y.queue ∧ FMap.find t.card.pool.held n = none))) ∧
         (ends → q.armed = none →
           q'.state = .finished .complete ∧ q'.inProgress = false ∧ q'.current = some i ∧ ended t) ∧
         (∀ j, ends → q.armed = some j → q.shows j → s.handlesNext t sc j (rest j) ∧ ended t) ∧
         (∀ e n, ends → q.list[i]? = some e → e.kind = .title n →
           s.endsRecord t sc i .complete ∧ (q.armed = none → t.card.counter.plays.get sc = none) ∧
           (q.armsNone → s.freesPermits t sc i none)) ∧
         (∀ hold, (q.list[i]?).map (·.kind) = some (.mark hold) → q.started = false → q.inProgress = false →
           q.faultHoldDue = false →
           (hold = true → q'.state = .held .mark ∧ q'.current = some i ∧ q'.started = true ∧
             q'.inProgress = false ∧ reached t) ∧
           (hold = false → q.armed = none →
             q'.state = .finished .complete ∧ q'.current = some i ∧ q'.inProgress = false ∧
             (q'.list[i]?).map (·.status) = some .passed ∧ reached t) ∧
           (∀ j, hold = false → q.armed = some j → q.shows j →
             s.handlesNext t sc j (whole j) ∧ (q'.list[i]?).map (·.status) = some .passed ∧ reached t)) ∧
         (∀ j e, ends → q.armed = some j → q.list[j]? = some e → e.kind = .mark true →
           q'.state = .held (if q.faultHoldDue then .fault else .mark) ∧ q'.current = some j ∧
           q'.faultHoldDue = false ∧ ended t))))

/-- A frame boundary of a screen with no frame in progress and no request handled. LOADING becomes READY where the
readiness test is met, and stays where it is not (R29). READY with start-when-ready set enters RUNNING where the link is
UP and the latch clear, and its INTERVAL or TITLE is handled at this boundary; where the link is not UP the flag is
cleared and READY kept (R29, R31, R32). STARVED with reason STARVE counts a boundary whose recovery test is not met, and
finishes STARVED_OUT at the limit; where the test is met, whatever the reason, it runs again, its frame presented if the
queues hold it (R38). A TITLE that starts has its record OPEN and its tally set up (R31, R149, R154). Fault hold due is
acted on: a RUNNING screen with a TITLE current and a STARVED one are HELD with kind FAULT, a MARK with HOLD_AT_MARK
reached at that boundary is reached first and HELD with kind FAULT, and in READY and HELD it is dropped (R39). -/
def Obligations.BoundaryTestsAndHolds : Prop :=
  ∀ (sc : Idx4) (h : Header) (s : State), s.acts sc h → s.card.linkStays sc →
    (let x := s.card.scr sc
     let q := x.seq
     let heads := fun (i : Nat) (p : Position) =>
       headHolds x.pictureQueue i p.reel p.frame = true ∧ headHolds x.soundQueue i p.reel p.frame = true
     let starts := fun (t : State) (i : Nat) (ti : Title) =>
       q.started = false → s.startsPlay t sc i ti (faultsOf (unitAtHead x.soundQueue x.sound.staged))
     q.handled = false → q.dueLater = false → q.inProgress = false →
      ∃ t, exec (.frameBoundary sc) s = .next t ∧
        (∀ sd, sd ≠ sc → (t.card.scr sd).seq = (s.card.scr sd).seq) ∧ t.card.engine = s.card.engine ∧ s.sameOutside t ∧
        (let q' := (t.card.scr sc).seq
         (q.state = .loading →
           q'.state = (if s.card.readyTest sc then .ready else .loading) ∧ q'.current = q.current ∧
             q'.startWhenReady = q.startWhenReady) ∧
         (q.state = .ready → q.startWhenReady = true →
           (x.port.link ≠ .up →
             q' = { q with
               startWhenReady := false, faultHoldDue := false, presented := none, holdTaken := false
               dueEnded := false }) ∧
           (∀ i p, x.port.link = .up → s.card.auto.latch = false → q.current = some i → q.position = some p →
             q'.startWhenReady = false ∧ q'.current = some i ∧ q'.position = some p ∧
             (∀ e n, q.list[i]? = some e → e.kind = .interval n →
               q'.state = .running ∧ q'.inProgress = true ∧ q'.started = true) ∧
             (∀ ti, q.title = some ti →
               (heads i p → q'.state = .running ∧ q'.inProgress = true ∧ q'.started = true ∧ starts t i ti) ∧
               (¬ heads i p → q'.state = .starved .starve ∧ q'.starveCount = 0 ∧ q'.inProgress = false ∧
                 q'.started = q.started ∧ t.raised (.screen sc) .starved = s.raised (.screen sc) .starved + 1)))) ∧
         (∀ k i ti p, q.state = .starved k → q.faultHoldDue = false → s.card.recoveryTest sc = true →
           q.current = some i → q.title = some ti → q.position = some p → heads i p →
           q'.state = .running ∧ q'.inProgress = true ∧ q'.started = true ∧ q'.position = some p ∧ starts t i ti) ∧
         (q.state = .starved .starve → q.faultHoldDue = false →
           (s.card.recoveryTest sc = false → q.starveCount + 1 < q.starveLimit →
             q'.state = .starved .starve ∧ q'.starveCount = q.starveCount + 1 ∧ q'.position = q.position) ∧
           (s.card.recoveryTest sc = false → q.starveLimit ≤ q.starveCount + 1 →
             q'.state = .finished .starvedOut ∧ q'.starveCount = 0)) ∧
         (q.state = .starved .reposition → q.faultHoldDue = false → s.card.recoveryTest sc = false →
           q'.state = .starved .reposition ∧ q'.starveCount = q.starveCount ∧ q'.position = q.position) ∧
         (q.faultHoldDue = true →
           (q.state = .running ∧ q.title ≠ none ∨ (∃ k, q.state = .starved k) →
             q'.state = .held .fault ∧ q'.starveCount = 0 ∧ q'.faultHoldDue = false ∧ q'.current = q.current ∧
             q'.position = q.position) ∧
           (∀ i, q.state = .running → q.current = some i → (q.list[i]?).map (·.kind) = some (.mark true) →
             q.started = false →
             q'.state = .held .fault ∧ q'.started = true ∧ q'.faultHoldDue = false ∧
             t.raised (.screen sc) .markReached = s.raised (.screen sc) .markReached + 1) ∧
           (q.state = .ready ∧ q.startWhenReady = false ∨ (∃ k, q.state = .held k) ∧ q.holdTaken = false →
             q' = { q with
               faultHoldDue := false, presented := none, holdTaken := false, dueEnded := false }))))

/-- The position report (R180, R22): at a frame boundary of a screen whose blocks act and whose sheet is seeded, the
report's sequence goes up by one and the report holds it before and after the screen's fields as they then stand, where
the report lies apart from the part of the booth sheet that the card writes. The next boundary's scan takes a request
again (R25). -/
def Obligations.PositionReportWritten : Prop :=
  ∀ (sc : Idx4) (h : Header) (s : State), s.acts sc h → (s.scan.get (.screen sc)).seeded = true →
    (let a := h.sheetAddr (.screen sc) + 8832
     spansApart (a, 44) (h.sheetAddr .booth + 576, 1120) →
     ∃ t, exec (.frameBoundary sc) s = .next t ∧
       (let n := (s.scan.get (.screen sc)).reportSeq + 1
        let x := t.card.scr sc
        let q := x.seq
        let none1 := fun (v : Option Nat) => (1, v.getD 255)
        let none4 := fun (v : Option Nat) => (4, v.getD 4294967295)
        let play := t.card.counter.plays.get sc
        (t.scan.get (.screen sc)).reportSeq = n ∧ (t.scan.get (.screen sc)).taken = false ∧
        t.mem.readBytes a 44 = leBytes n.toNat 4 ++
          reportBody [(1, q.state.codes.1), (1, q.state.codes.2), none1 q.current, none1 (q.position.map (·.reel)),
            none4 (q.position.map (·.frame)), (4, (q.loadNumber.map (·.toNat)).getD 0), (2, x.sound.master),
            (1, (t.card.auto.outputs.get sc).toNat), (4, queueDepth x.pictureQueue), (4, queueDepth x.soundQueue),
            (2, t.card.pool.heldBy sc), (1, x.port.link.code), none4 (play.map (·.credited)),
            none4 (play.map (·.needed))] [] ++ leBytes n.toNat 4) ∧
       s.sameOutside t)

/-- A frame boundary at which a RUNNING screen plays an INTERVAL (R24, R32, R133), its successor settled and no fault
hold due: a frame in progress that is not the last completes, the next frame is presented without any queue, and where
the link is UP a DARK transfer begins; the frame period is that of 24 frames a second, and the sound is silent. The
automation unit counts its pulse timers down and applies the entry cues of the frame, and them alone (R140 to R142); the
text engine applies a pending selection and nothing else (R120, R126), and the captions show nothing (R127), in a frame
that carries the count after its own rise, which is the model's (log 57). -/
def Obligations.BoundaryPlaysInterval : Prop :=
  ∀ (sc : Idx4) (h : Header) (s : State) (i n : Nat) (e : Entry) (p : Position), s.acts sc h → s.card.linkStays sc →
    s.card.auto.timersRise →
    (let x := s.card.scr sc
     let q := x.seq
     let shown : Position := ⟨p.reel, if q.inProgress then p.frame + 1 else p.frame⟩
     q.state = .running → q.handled = false → q.faultHoldDue = false → q.settled = true → q.current = some i →
      q.list[i]? = some e → e.kind = .interval n → q.position = some p →
      (q.inProgress = true → p.reel = 0 ∧ p.frame + 1 < 24 * n) →
      ∃ t, exec (.frameBoundary sc) s = .next t ∧
        (let y := t.card.scr sc
         y.seq = { q with
           position := some shown
           inProgress := true, started := true, handled := false, holdTaken := false, dueLater := false
           dueEnded := false, presented := none } ∧
         y.sound.count = 0 ∧ y.sound.period = y.sound.linkRate / 24 ∧ y.sound.feed = none ∧ y.sound.target = 0 ∧
         y.pictureQueue = x.pictureQueue ∧ y.soundQueue = x.soundQueue ∧ y.tallies = x.tallies ∧
         s.sendsDark t sc ∧ s.actsCues t sc (e.cuesAt shown) ∧ s.sendsCaptions t sc false ∧ s.keepsCues t sc) ∧
        (∀ sd, sd ≠ sc → (t.card.scr sd).seq = (s.card.scr sd).seq) ∧ t.card.engine = s.card.engine ∧
        s.sameOutside t)

/-- A frame boundary of a RUNNING screen with a TITLE current and no frame in progress (R31). Where the heads of both
queues hold the frame at the position, it is presented, the entry is started, and each head gives up one frame; at the
entry's first frame its record is OPEN with the booth time as start time, and its tally is set up (R149, R154), and a
SOUND_UNIT fault adds 1 to the record's sound faults (R152), without a bound (log 81). The cue records of the frame are
hidden, shown, overrun and handed over (R120 to R122) and the overlay and the captions published (R123, R127; that the
frame count of the captions is the one after its rise is log 57). The automation unit counts its pulse timers down and
applies the entry cues and then the track cues of the frame (R140 to R142). The mix is fed the sound unit, or silence
(R94, R98). A PICTURE or FAULT_DARK transfer begins where the link is UP (R133), and else the frame is settled lost or
faulted (R135). The faults of the frame are judged in the order overrun cues, SOUND_UNIT, LINK_LOST, PICTURE_UNIT, which
is the model's (log 61). The fader's target is the show level, which a LEVEL cue reaches over its fade time (R104,
R106). Where a head does not hold the frame, the screen is STARVED with reason STARVE and starvation count 0, the
position stands, no queue moves, no cue acts, a pending selection is applied (R126), and a DARK transfer begins where
the link is UP. -/
def Obligations.BoundaryPresentsTitle : Prop :=
  ∀ (sc : Idx4) (h : Header) (s : State) (i : Nat) (ti : Title) (p : Position), s.acts sc h → s.card.linkStays sc →
    s.card.auto.timersRise →
    (let x := s.card.scr sc
     let q := x.seq
     let cues := ((q.list[i]?).map (·.cuesAt p)).getD [] ++ s.card.trackCuesAt sc p.reel p.frame
     let faults := s.card.frameFaults sc p.reel p.frame
     let judged := faultsJudged s.card.auto.latch q.settings faults (x.tallies, 0, false)
     let heard := unitAtHead x.soundQueue x.sound.staged
     q.state = .running → q.handled = false → q.faultHoldDue = false → q.inProgress = false →
      q.current = some i → q.title = some ti → q.position = some p →
      ∃ t, exec (.frameBoundary sc) s = .next t ∧
        (let y := t.card.scr sc
         y.sound.routes = x.sound.newRoutes.getD x.sound.routes ∧
         y.seq.current = some i ∧ y.seq.position = some p ∧ y.seq.presented = none ∧ y.seq.handled = false ∧
         (headHolds x.pictureQueue i p.reel p.frame = true ∧ headHolds x.soundQueue i p.reel p.frame = true →
           y.seq.state = .running ∧ y.seq.inProgress = true ∧ y.seq.started = true ∧
           y.pictureQueue = popFrame x.pictureQueue ∧ y.soundQueue = popFrame x.soundQueue ∧
           s.showsCues t sc p.reel p.frame ∧ s.actsCues t sc cues ∧ s.sendsCaptions t sc true ∧
           s.sendsFrame t sc ⟨i, p.reel, p.frame, true⟩ ∧
           (q.started = false → s.startsPlay t sc i ti (faultsOf heard)) ∧
           (q.started = true → t.card.counter = if faultsOf heard = 0 then s.card.counter else { s.card.counter with
             holding := s.card.counter.holding.map (fun k =>
               if k.isFor sc i then { k with soundFaults := k.soundFaults + 1 }.withCheck else k) }) ∧
           y.tallies = judged.1 ∧ y.seq.faultHoldDue = judged.2.2 ∧
           t.raised (.screen sc) .fault = s.raised (.screen sc) .fault + BitVec.ofNat 32 judged.2.1 ∧
           y.sound.staged = stagedAfter x.soundQueue x.sound.staged ∧
           (∀ bytes rate channels id isSealed, heard = .ok bytes →
             (ti.reels[p.reel]?).bind (·.trackOf .sound) = some ⟨.sound rate channels, id, isSealed⟩ →
             y.sound.feed = some ⟨bytes, channels, rate⟩) ∧
           (∀ cause, heard = .error cause → y.sound.feed = none) ∧
           y.sound.target = (if s.card.auto.latch = true ∨ x.sound.dip = .down then 0 else y.sound.level) ∧
           (∀ a, cues.filter (fun a => a.code == 4) = [a] → s.card.auto.latch = false → x.sound.dip ≠ .down →
             x.sound.target = x.sound.level → y.sound.level ≠ x.sound.level →
             y.sound.step = rampStep y.sound.level x.sound.master (min 10000 a.arg2 * y.sound.linkRate / 1000))) ∧
         (headHolds x.pictureQueue i p.reel p.frame = false ∨ headHolds x.soundQueue i p.reel p.frame = false →
           y.seq.state = .starved .starve ∧ y.seq.starveCount = 0 ∧ y.seq.inProgress = false ∧
           y.seq.started = q.started ∧ y.pictureQueue = x.pictureQueue ∧ y.soundQueue = x.soundQueue ∧
           y.tallies = x.tallies ∧ y.sound.feed = none ∧ y.sound.target = 0 ∧ s.sendsDark t sc ∧ s.actsCues t sc [] ∧
           s.sendsCaptions t sc false ∧ s.keepsCues t sc ∧ t.card.counter = s.card.counter ∧
           t.raised (.screen sc) .starved = s.raised (.screen sc) .starved + 1)) ∧
        (∀ sd, sd ≠ sc → (t.card.scr sd).seq = (s.card.scr sd).seq) ∧ s.sameOutside t)

/-- The thresholds at which an event falls (R38, R130, R131, R142); that each is taken early, as the coming boundary's,
is the model's (log 22). The starvation limit finishes the screen STARVED_OUT; the training count's 48th boundary and
the answer-wait count's 8th unanswered transfer take the link DOWN, a PICTURE frame in flight being lost, and raise
LINK_CHANGE; that the training count is then 0 and nothing is sent is the model's (log 59, 60). A pulse timer at its
last frame expires: it is removed and its output turned off, every other output and timer is as before, and booth memory
is not written. -/
def Obligations.ThresholdsActAtTheirLimits : Prop :=
  ∀ (sc : Idx4) (h : Header) (s : State), s.acts sc h →
    (let x := s.card.scr sc
     let q := x.seq
     (q.state = .starved .starve → s.card.recoveryTest sc = false → q.starveLimit ≤ q.starveCount + 1 →
       q.faultHoldDue = false → q.handled = false →
       ∃ t, exec (.starvedOut sc) s = .next t ∧
         (let q' := (t.card.scr sc).seq
          q'.state = .finished .starvedOut ∧ q'.inProgress = false ∧ q'.starveCount = 0 ∧
          q'.startWhenReady = false ∧ q'.armed = none) ∧
         (∀ sd, sd ≠ sc → (t.card.scr sd).seq = (s.card.scr sd).seq) ∧ s.sameOutside t) ∧
     (x.port.link = .training → x.port.training = 47 → x.port.transfer = none →
       ∃ t, exec (.trainingTimeout sc) s = .next t ∧
         (t.card.scr sc).port = { x.port with link := .down, training := 0, output := .nothing } ∧
         (t.card.scr sc).seq = q ∧ t.raised (.screen sc) .linkChange = s.raised (.screen sc) .linkChange + 1 ∧
         s.card.onlyScreen sc t.card ∧ s.mem.sameOutside t.mem [h.noticeSpan (.screen sc) .linkChange] ∧
         s.sameOutside t) ∧
     (∀ tr, x.port.link = .up → x.port.transfer = some tr → tr.answered = false → x.port.answerWait = 7 →
       ∃ t, exec (.noAnswer sc) s = .next t ∧
         (t.card.scr sc).port = { x.port with
           link := .down, training := 0, backOff := false, output := .nothing, transfer := none, answerWait := 8
           lost := if tr.kind = .picture then x.port.lost + 1 else x.port.lost
           outage := x.port.outage || decide (q.state = .running) } ∧
         (t.card.scr sc).seq.state = q.state ∧ (t.card.scr sc).seq.position = q.position ∧
         t.raised (.screen sc) .linkChange = s.raised (.screen sc) .linkChange + 1 ∧ s.sameOutside t) ∧
     (∀ n : Fin 8, FMap.find (s.card.auto.timers.get sc) n.val = some 1 →
       ∃ t, exec (.pulseTimerExpiry sc n) s = .next t ∧
         (∀ k, k < 8 → (t.card.auto.outputs.get sc).getLsbD k =
           if k = n.val then false else (s.card.auto.outputs.get sc).getLsbD k) ∧
         (∀ k, FMap.find (t.card.auto.timers.get sc) k =
           if k = n.val then none else FMap.find (s.card.auto.timers.get sc) k) ∧
         (∀ sd, sd ≠ sc → t.card.auto.outputs.get sd = s.card.auto.outputs.get sd ∧
           t.card.auto.timers.get sd = s.card.auto.timers.get sd) ∧
         t.card.auto = { s.card.auto with outputs := t.card.auto.outputs, timers := t.card.auto.timers } ∧
         ({ s.card with auto := t.card.auto } : Card).sameButFaders t.card ∧ t.mem = s.mem ∧ t.scan = s.scan ∧
         s.sameOutside t))

/-- A link sample period (R93, R100, R101, R102, R103, R105, R109): the mixed value of each output is written into the
delay line at the write index, and every other place stands; the master moves one step towards its target; each output
sends the mixed value delayed by the delay and scaled by the new master, rounded half away from zero, or 0 outside
RUNNING and STOPPING; the write index and the sample count go up by one. A dip that is DOWN with the master at 0
ends there, and one that is UP with the master at its target is over. The mixed value of an output is the sum over its
routes of the source's converted sample times the gain, scaled by 16384 and held within 24 bits: a source at or beyond
the channel count gives 0, an equal rate the sample itself, 96 000 to 48 000 the mean of two, 48 000 to 96 000 each
sample twice. The dip's ends as events of their own: DOWN ends with the master at 0, when the pending delay is applied
and the dip is UP towards the effective target without the DOWN condition, or over at once where that is 0; UP ends
where the master is at its target; nothing else moves, and booth memory is not written. -/
def Obligations.SamplePeriodsAndDips : Prop :=
  (∀ (sc : Idx4) (s : State), s.powered = true → s.settled →
    (let x := (s.card.scr sc).sound
     let quiet := (s.card.scr sc).seq.state ≠ .running ∨
       (s.card.scr sc).seq.atInterval = true ∨ s.card.auto.latch = true
     (x.write < 8192 → x.delay < 8192 →
      ∃ t, exec (.linkSamplePeriod sc) s = .next t ∧
       (let y := (t.card.scr sc).sound
        let m := if x.master < x.target then min x.target (x.master + x.step)
          else if x.target < x.master then max x.target (x.master - x.step) else x.master
        y.master = m ∧ y.write = (x.write + 1) % 8192 ∧ y.count = x.count + 1 ∧
        y.level = x.level ∧ y.routes = x.routes ∧ y.feed = x.feed ∧ y.sent.length = 16 ∧
        (∀ o, o < 16 → lineRead y.line x.write o = BitVec.ofInt 24 (x.mixed o).1) ∧
        (∀ w o, o < 16 → w ≠ x.write → lineRead y.line w o = lineRead x.line w o) ∧
        (x.dip = .none → y.dip = .none ∧ y.delay = x.delay ∧ y.pendingDelay = x.pendingDelay) ∧
        (x.dip = .down → m ≠ 0 → y.dip = .down ∧ y.delay = x.delay ∧ y.pendingDelay = x.pendingDelay) ∧
        (∀ tgt, x.dip = .down → m = 0 → (quiet → tgt = 0) → (¬ quiet → tgt = x.level) →
          y.dip = (if tgt = 0 then .none else .up) ∧ y.target = tgt ∧ y.delay = x.pendingDelay.getD x.delay ∧
          y.pendingDelay = none) ∧
        (x.dip = .up → y.dip = (if m = x.target then .none else .up) ∧ y.delay = x.delay) ∧
        ∀ o, o < 16 → y.sent[o]? = some (
          if s.card.active then
            let v : Int := if x.delay = 0 then (x.mixed o).1
              else (lineRead x.line ((x.write + 8192 - x.delay) % 8192) o).toInt
            BitVec.ofInt 24 (roundHalfAway (v * (m : Int)) 16384)
          else 0)) ∧
       (∀ sd, sd ≠ sc → (t.card.scr sd).seq = (s.card.scr sd).seq) ∧ t.card.auto = s.card.auto ∧ s.sameOutside t) ∧
     (∀ tgt, x.dip = .down → x.master = 0 → (quiet → tgt = 0) → (¬ quiet → tgt = x.level) →
       ∃ t, exec (.dipDownEnd sc) s = .next t ∧
         (t.card.scr sc) = { s.card.scr sc with sound := { x with
           delay := x.pendingDelay.getD x.delay, pendingDelay := none
           dip := if tgt = 0 then .none else .up, target := tgt
           step := if x.target = tgt then x.step else max 1 (ceilDiv tgt (if x.linkRate = 96000 then 192 else 96)) } } ∧
         s.card.onlyScreen sc t.card ∧ t.mem = s.mem ∧ t.scan = s.scan ∧ s.sameOutside t) ∧
     (x.dip = .up → x.master = x.target →
       ∃ t, exec (.dipUpEnd sc) s = .next t ∧
         ({ s.card.scr sc with sound := { x with dip := .none } } : Screen).sameButFader (t.card.scr sc) ∧
         s.card.onlyScreen sc t.card ∧ t.mem = s.mem ∧ t.scan = s.scan ∧ s.sameOutside t))) ∧
  (∀ (x : Sound) (o : Nat), x.feed = none → x.mixed o = (0, false)) ∧
  (∀ (x : Sound) (f : SoundFeed) (o : Nat), x.feed = some f →
    (let sample := fun (i ch : Nat) => (BitVec.ofNat 24 (fieldAt f.bytes (3 * (i * f.channels + ch)) 3)).toInt
     let source := fun (ch : Nat) =>
       if f.channels ≤ ch then 0
       else if f.rate = x.linkRate then sample x.count ch
       else if f.rate = 96000 then roundHalfAway (sample (2 * x.count) ch + sample (2 * x.count + 1) ch) 2
       else sample (x.count / 2) ch
     let v := roundHalfAway
       ((x.routes.filter (fun r => r.output == o)).map (fun r => source r.source * (r.gain : Int))).sum 16384
     x.mixed o = (max (-8388608) (min 8388607 v), decide (v < -8388608 ∨ 8388607 < v)))) ∧
  (∀ (n : Int) (d : Nat), 0 < d →
    (let v := roundHalfAway n d
     2 * (v * d - n).natAbs ≤ d ∧ (2 * (v * d - n).natAbs = d → n.natAbs < (v * d).natAbs)))

/-- A fault handed over is judged by its class's disposition (R165, R164, R131): a LINK_LOST that SIGNAL_LOST brings to
a RUNNING screen is discarded while the latch is set; with CONCEAL it raises FAULT; with HOLD it raises FAULT and a
fault hold is due, or is counted where one is due already. MIX_CLIP faults are counted once for each output saturated in
a sample period (R102). At the end of an entry, here by STOP, FAULT_TALLY is raised if a count is above 0, and every
count is 0 (R166). -/
def Obligations.FaultsAreJudged : Prop :=
  (∀ (sc : Idx4) (h : Header) (s : State), s.acts sc h →
    (let x := s.card.scr sc
     let q := x.seq
     let counted := x.tallies.modify 12 (fun n => min 4294967295 (n + 1))
     x.port.link = .up → q.state = .running →
     ∃ t, exec (.signalLost sc) s = .next t ∧ s.sameOutside t ∧ s.card.onlyScreen sc t.card ∧
       (let y := t.card.scr sc
        let raised := t.raised (.screen sc) .fault
        let before := s.raised (.screen sc) .fault
        y.port.link = .down ∧
        (s.card.auto.latch = true → y.seq = q ∧ y.tallies = x.tallies ∧ raised = before) ∧
        (s.card.auto.latch = false →
          (q.settings.linkLost = .conceal → y.seq = q ∧ y.tallies = x.tallies ∧ raised = before + 1) ∧
          (q.settings.linkLost = .hold → q.faultHoldDue = false →
            y.seq = { q with faultHoldDue := true } ∧ y.tallies = x.tallies ∧ raised = before + 1) ∧
          (q.settings.linkLost = .hold → q.faultHoldDue = true →
            y.seq = q ∧ y.tallies = counted ∧ raised = before) ∧
          (q.settings.linkLost = .tally → y.seq = q ∧ y.tallies = counted ∧ raised = before))))) ∧
  (∀ (sc : Idx4) (s : State), s.powered = true → s.settled → s.card.auto.latch = false →
    (s.card.scr sc).seq.settings.mixClip = .tally →
    (let x := s.card.scr sc
     let clips := ((List.range 16).filter (fun o => (x.sound.mixed o).2)).length
     ∃ t, exec (.linkSamplePeriod sc) s = .next t ∧ t.mem = s.mem ∧ t.scan = s.scan ∧ (t.card.scr sc).seq = x.seq ∧
       (t.card.scr sc).tallies = (if clips = 0 then x.tallies
         else x.tallies.modify 13 (fun n => min 4294967295 (n + clips))))) ∧
  (∀ (sc : Idx4) (r : RequestWord) (h : Header) (s : State), s.judges sc h r →
    (let x := s.card.scr sc
     x.seq.current ≠ none → x.seq.state ≠ .dark → (∀ k, x.seq.state ≠ .finished k) →
     ∃ t, exec (.stop sc r) s = .next t ∧ (∀ n ∈ (t.card.scr sc).tallies, n = 0) ∧
       t.raised (.screen sc) .faultTally = s.raised (.screen sc) .faultTally +
         (if x.tallies.all (· == 0) then 0 else 1)))

/-! ## Screen requests -/

/-- A request of a sheet that is not scanned, or whose scan of the boundary or tick at hand has been made, or a screen's
while its LOAD is in progress (R25, R177), changes nothing. A request word whose number is the last taken one, or
differs between its two readings, is not taken (R178): the scan at hand is over, and nothing else changes. -/
def Obligations.RequestsAreTakenOnce : Prop :=
  ∀ (c : Instr) (sh : Sheet) (r : RequestWord) (s : State), s.powered = true → c.request = some (sh, r) →
    (s.scanned sh = none ∨ (∃ sc, sh = .screen sc ∧ (s.card.scr sc).seq.load ≠ none) →
      exec c s = .next { s with mem := s.mem.hostStore c.requestWrites }) ∧
    (∀ h, c.wf = true → s.scanned sh = some h → (∀ sc, sh = .screen sc → (s.card.scr sc).seq.load = none) →
      s.card.busFailed (.requestWord sh) = false → r.number = (s.scan.get sh).lastTaken ∨ r.again ≠ r.number →
      exec c s = .next { s with
        mem := s.mem.hostStore c.requestWrites
        scan := s.scan.set sh { s.scan.get sh with taken := true }
        card := s.card.busDone (.requestWord sh) })

/-- In STOPPING every screen request taken is answered REFUSED_STATE (R25): nothing else of its screen or of booth
memory changes. That a code outside the set is refused there too is the model's reading (log 30). -/
def Obligations.StoppingRefusesRequests : Prop :=
  ∀ (c : Instr) (sc : Idx4) (h : Header) (r : RequestWord) (s : State), c.request = some (.screen sc, r) →
    c.wf = true → s.takes (.screen sc) h r → s.card.engine = .stopping → (s.card.scr sc).seq.load = none →
    ∃ t, exec c s = .next t ∧
      s.answeredOnly t (s.mem.hostStore c.requestWrites) h sc (s.card.scr sc) r.number .refusedState

/-- R25's table: in RUNNING a request that the screen's state refuses is answered REFUSED_STATE, and so is REEL_JUMP
with an INTERVAL or MARK current (R41); nothing else of the screen changes but that the last frame's transfer is settled
(R135). A request that R47 lets an event precede is here taken first, or meets none. -/
def Obligations.StateRefusesRequests : Prop :=
  ∀ (c : Instr) (sc : Idx4) (h : Header) (r : RequestWord) (s : State), c.request = some (.screen sc, r) →
    s.judges sc h r → (c.order ≠ some .eventFirst ∨ s.card.noEvent sc) →
    (let q := (s.card.scr sc).seq
     (c.refusedIn q.state = true ∨
       (∃ reel, c = .reelJump sc r reel) ∧ q.title = none ∧
         (q.state = .running ∨ (∃ k, q.state = .held k) ∨ ∃ k, q.state = .starved k)) →
     ∃ t, exec c s = .next t ∧
       s.answeredOnly t (s.mem.hostStore c.requestWrites) h sc (s.card.scr sc).settled r.number .refusedState)

/-- LOAD (R15, R8, R11 to R13, R18, R186): taken in DARK and FINISHED, it notes its number, every setting of the
settings block brought into its range with the flags of what was clamped, and every entry of the show list as they stand
in the sheet; it is not answered, and nothing else of the screen changes but that the last frame's transfer is settled
(R135). Where the completion of the last frame of a show with no successor comes first, it is taken in FINISHED,
COMPLETE (R47). While the latch is set it is answered EMERGENCY and nothing is noted. That the block and the list are
read here, the title records at the end, is the model's (log 43). -/
def Obligations.LoadBegins : Prop :=
  ∀ (sc : Idx4) (r : RequestWord) (o : Order) (host : HostWrites) (h : Header) (s : State), s.judges sc h r →
    (let m := s.mem.hostStore host
     let x := (s.card.scr sc).settled
     let noted := fun (l : LoadInProgress) =>
          l.number = r.number ∧ l.latched = false ∧ l.entryCount = m.field (h.showListAddr sc) 1 ∧
          (l.entryCount ≤ 64 → l.entries.length = l.entryCount) ∧
          (∀ (i : Nat) (e : RawEntry), l.entries[i]? = some e →
            (let raw := fun (off w : Nat) => m.field (h.showListAddr sc + 8 + 128 * i + off) w
             e.kind = raw 0 1 ∧ e.condition = raw 1 1 ∧ e.input = raw 2 1 ∧ e.cueCount = raw 3 1 ∧
               e.holdAtMark = (raw 4 1 % 2 == 1) ∧ e.seconds = raw 6 2 ∧
               e.locator = ⟨raw 8 1, ringOf (raw 9 1), raw 16 8⟩ ∧ e.cues.length = min 8 (raw 3 1) ∧
               ∀ (k : Nat) (q : RawCue), e.cues[k]? = some q →
                 q = ⟨raw (32 + 12 * k) 1, raw (33 + 12 * k) 1, raw (36 + 12 * k) 4,
                 raw (40 + 12 * k) 2, raw (42 + 12 * k) 2⟩)) ∧
          (let raw := fun (off w : Nat) => m.field (h.settingsAddr sc + off) w
           let v := l.settings
           let places := List.range (min 32 (raw 3 1))
           let outside := fun (i : Nat) => decide (15 < raw (16 + 4 * i) 1 ∨ 15 < raw (17 + 4 * i) 1)
           let unit := fun n => if n = 1 then Disposition.hold else if n = 2 then .conceal else .tally
           v.preroll = max 12 (min 48 (raw 0 1)) ∧ v.recovery = max 6 (min v.preroll (raw 1 1)) ∧
           v.starvation = max 1 (min 60 (raw 2 1)) ∧ v.overlay = Idx4.ofNat? (raw 4 1) ∧
           v.captions = BitVec.ofNat 4 (raw 5 1) ∧ v.level = min 16384 (raw 6 2) ∧ v.lipsync = min 8191 (raw 8 2) ∧
           v.pictureUnit = unit (raw 10 1) ∧ v.soundUnit = unit (raw 11 1) ∧
           v.textUnit = (if raw 12 1 = 2 then .conceal else .tally) ∧
           v.linkLost = (if raw 13 1 = 1 then .hold else .conceal) ∧ v.mixClip = .tally ∧ v.cueDrop = .tally ∧
           v.routes = places.filterMap (fun i =>
             if outside i then none
             else some ⟨raw (16 + 4 * i) 1, raw (17 + 4 * i) 1, min 32767 (raw (18 + 4 * i) 2)⟩) ∧
           ∀ k, l.clamped.getLsbD k =
             [decide (raw 0 1 < 12 ∨ 48 < raw 0 1), decide (raw 1 1 < 6 ∨ v.preroll < raw 1 1),
              decide (raw 2 1 < 1 ∨ 60 < raw 2 1), decide (32 < raw 3 1), decide (3 < raw 4 1 ∧ raw 4 1 ≠ 255),
              decide (16384 < raw 6 2), decide (8191 < raw 8 2),
              places.any (fun i => outside i || decide (32767 < raw (18 + 4 * i) 2))].getD k false)
     (s.card.auto.latch = false → o = .eventFirst → s.card.endsShow sc →
       ∃ t, exec (.load sc r o host) s = .next t ∧ (t.scan.get (.screen sc)).lastTaken = r.number ∧ s.sameOutside t ∧
        (t.card.scr sc).seq.state = .finished .complete ∧ (t.card.scr sc).seq.inProgress = false ∧
        t.raised (.screen sc) .entryEnded = s.raised (.screen sc) .entryEnded +
          (if x.seq.entry = none ∨ x.seq.atMark = true then 0 else 1) ∧
        ∃ l, (t.card.scr sc).seq.load = some l ∧ noted l) ∧
     ((o = .requestFirst ∨ s.card.noEvent sc) →
      ((s.card.scr sc).seq.state = .dark ∨ ∃ k, (s.card.scr sc).seq.state = .finished k) →
      ∃ t, exec (.load sc r o host) s = .next t ∧
      (s.card.auto.latch = true → s.answeredOnly t m h sc x r.number .emergency) ∧
      (s.card.auto.latch = false →
        t.mem = m ∧ s.card.onlyScreen sc t.card ∧ s.sameOutside t ∧
        t.scan = s.scan.set (.screen sc) { s.scan.get (.screen sc) with lastTaken := r.number, taken := true } ∧
        ∃ l, ({ x with seq := { x.seq with load := some l } } : Screen).sameButFader (t.card.scr sc) ∧ noted l)))

/-- LOAD_COMPLETE where a check or a read fails (R8, R16): the answer is the one that R16's table gives the failure,
BAD_RECORD with entry, reel, track and check, AREA_FAULT or MEMORY_FAULT with the entry, and the latter raises
MEMORY_FAULT on the booth sheet; the screen is as before the request. The checks come one by one in the order of R15 and
R3. The show list: a count above 64 fails ENTRY_COUNT whatever the entries, and the first entry that fails decides. An
entry: its kind, condition, interval length and number of cues (R8, R9), its title record, and the place and action of
each cue (R10). A title record: its area, its fixed part, the area of its stated length, and its reels (R3): each reel's
entry, duration and track count, its tracks in memory order, and one PICTURE and one SOUND track (R4). A track: its
kind, one too many of its kind or slot, its format, slot, language, SEALED flag, duration and id (R5, R6). The
order of an entry's own fields, the input of an ALWAYS entry unchecked, and the area of a title record checked over its
fixed part first are read from the manual by inference (log 35). That the title records are read and checked as they
stand here, at the end, is the model's (log 43). -/
def Obligations.LoadFailureKeepsCopies : Prop :=
  (∀ (c : Card) (m : Mem) (h : Header) (sc : Idx4) (l : LoadInProgress),
    (64 < l.entryCount → c.checkLoad m h sc l = .error (.badRecord .entryCount none none none)) ∧
    (l.entryCount ≤ 64 →
      (∀ before e after b f, l.entries = before ++ e :: after → c.checkEntries m h sc 0 {} before = .ok b →
        c.checkEntry m h sc before.length b e = .error f → c.checkLoad m h sc l = .error f) ∧
      (∀ before e b b', c.checkEntries m h sc 0 {} before = .ok b → c.checkEntry m h sc before.length b e = .ok b' →
        c.checkEntries m h sc 0 {} (before ++ [e]) = .ok b') ∧
      (∀ b, c.checkEntries m h sc 0 {} l.entries = .ok b → c.checkLoad m h sc l = .ok b))) ∧
  (∀ (c : Card) (m : Mem) (h : Header) (sc : Idx4) (i : Nat) (b : LoadBuild) (e : RawEntry),
    (let result := c.checkEntry m h sc i b e
     let fails := fun (k : Check) => result = .error (.badRecord k (some i) none none)
     let kinded := 1 ≤ e.kind ∧ e.kind ≤ 3
     let conditioned := e.condition = 1 ∨ (e.condition = 2 ∨ e.condition = 3) ∧ e.input ≤ 7
     let timed := e.kind = 2 → 1 ≤ e.seconds ∧ e.seconds ≤ 3600
     let counted := e.cueCount ≤ 8 ∧ (e.kind = 3 → e.cueCount = 0)
     let fits := fun (length : Nat) (k : RawCue) =>
       (k.anchor = 1 ∧ k.offset < length ∨ k.anchor = 2 ∧ 1 ≤ k.offset ∧ k.offset ≤ length) ∧
         (1 ≤ k.code ∧ k.code ≤ 3 → k.arg1 ≤ 7) ∧ (k.code = 3 → 1 ≤ k.arg2 ∧ k.arg2 ≤ 255)
     let ends := fun (length : Nat) =>
       ((∃ k ∈ e.cues, ¬ fits length k) → fails .entryCue) ∧
         ((∀ k ∈ e.cues, fits length k) → ∃ b', result = .ok b' ∧ b'.entries.length = b.entries.length + 1)
     let key : Locator := { e.locator with ring := h.titleRing sc e.locator }
     (¬ kinded → fails .entryKind) ∧ (kinded → ¬ conditioned → fails .condition) ∧
     (kinded → conditioned → ¬ timed → fails .intervalLength) ∧
     (kinded → conditioned → timed → ¬ counted → fails .entryCue) ∧
     (kinded → conditioned → timed → counted →
       (e.kind = 1 → (∀ x ∈ b.titles, x.1 ≠ key) →
         (∀ f, c.readTitle m h sc i e.locator = .error f → result = .error f) ∧
         (∀ ti, c.readTitle m h sc i e.locator = .ok ti → ends (ti.reels.map (·.duration)).sum)) ∧
       (e.kind = 1 → ∀ before x after, b.titles = before ++ x :: after → (∀ y ∈ before, y.1 ≠ key) → x.1 = key →
         ends (x.2.reels.map (·.duration)).sum) ∧
       (e.kind = 2 → ends (24 * e.seconds)) ∧ (e.kind = 3 → ends 0)))) ∧
  (∀ (c : Card) (m : Mem) (h : Header) (sc : Idx4) (i : Nat) (l : Locator),
    (let result := c.readTitle m h sc i l
     let ring := Ring.max (h.sheetRing (.screen sc)) l.ring
     let raw := fun (off w : Nat) => m.field (h.locate l + off) w
     let granted := fun (length : Nat) => h.grants l.area l.offset length ring false = true
     let read := c.busFailed (.titleRead sc (Fin.ofNat 64 i)) = false
     let fails := fun (k : Check) => result = .error (.badRecord k (some i) none none)
     let sized := 64 ≤ raw 8 4 ∧ raw 8 4 ≤ 65536
     let named := raw 15 1 ≤ 40
     let rated := raw 12 1 ∈ [24, 25, 30, 48, 60]
     let reeled := 1 ≤ raw 14 1 ∧ raw 14 1 ≤ 32
     (¬ granted 64 → result = .error (.areaFault i)) ∧ (granted 64 → ¬ read → result = .error (.memoryFault i)) ∧
     (granted 64 → read → ¬ sized → fails .titleLength) ∧ (granted 64 → read → sized → ¬ named → fails .nameLength) ∧
     (granted 64 → read → sized → named → ¬ rated → fails .frameRate) ∧
     (granted 64 → read → sized → named → rated → ¬ reeled → fails .reelCount) ∧
     (granted 64 → read → sized → named → rated → reeled →
       (¬ granted (raw 8 4) → result = .error (.areaFault i)) ∧
       (granted (raw 8 4) →
         (let bs := m.readBytes (h.locate l) (raw 8 4)
          let isSealed : Bool := raw 13 1 % 2 == 1
          (∀ f, checkReels bs isSealed (raw 14 1) 64 0 [] [] = .error f →
            result = .error (.badRecord f.failed (some i) f.reel f.track)) ∧
          (∀ reels, checkReels bs isSealed (raw 14 1) 64 0 [] [] = .ok reels →
            result = .ok ⟨BitVec.ofNat 64 (raw 0 8), raw 12 1, isSealed, reels⟩)))))) ∧
  (∀ (bs : List Byte) (flag : Bool) (n off reel : Nat) (done : List Reel) (ids : List U32),
    (let result := checkReels bs flag (n + 1) off reel done ids
     let fails := fun (k : Check) => result = .error ⟨k, some reel, none⟩
     let duration := fieldAt bs off 4
     let tracks := fieldAt bs (off + 4) 1
     let there := off + 8 ≤ bs.length
     let lasts := 1 ≤ duration ∧ duration ≤ 1000000
     let counted := 2 ≤ tracks ∧ tracks ≤ 7
     let whole := off + 8 + 16 * tracks ≤ bs.length
     let checked := checkTracks bs duration flag reel tracks (off + 8) 0 [] ids
     checkReels bs flag 0 off reel done ids = .ok done ∧
     (¬ there → fails .titleLength) ∧ (there → ¬ lasts → fails .reelDuration) ∧
     (there → lasts → ¬ counted → fails .trackKind) ∧ (there → lasts → counted → ¬ whole → fails .titleLength) ∧
     (there → lasts → counted → whole →
       (∀ f, checked = .error f → result = .error f) ∧
       (∀ ts ids', checked = .ok (ts, ids') →
         (let pictured := ∃ t ∈ ts, t.kind = .picture
          let sounded := ∃ t ∈ ts, ∃ rate channels, t.kind = .sound rate channels
          (¬ pictured → fails .pictureTrack) ∧ (pictured → ¬ sounded → fails .soundTrack) ∧
          (pictured → sounded → result =
            checkReels bs flag n (off + 8 + 16 * tracks) (reel + 1) (done ++ [⟨duration, orderTracks ts⟩]) ids')))))) ∧
  (∀ (bs : List Byte) (duration : Nat) (flag : Bool) (reel n off k : Nat) (done : List Track) (ids : List U32),
    (let bytes := slice bs off 16
     let result := checkTracks bs duration flag reel (n + 1) off k done ids
     checkTracks bs duration flag reel 0 off k done ids = .ok (done, ids) ∧
     (∀ c, checkTrack duration flag done ids bytes = .error c → result = .error ⟨c, some reel, some k⟩) ∧
     (∀ t, checkTrack duration flag done ids bytes = .ok t → result =
       checkTracks bs duration flag reel n (off + 16) (k + 1) (done ++ [t]) (ids ++ [t.id])))) ∧
  (∀ (bs : List Byte) (duration : Nat) (flag : Bool) (before : List Track) (ids : List U32), bs.length = 16 →
    (let raw := fun (off w : Nat) => fieldAt bs off w
     let result := checkTrack duration flag before ids bs
     let fails := fun (k : Check) => result = .error k
     let kind := raw 0 1
     let known := 1 ≤ kind ∧ kind ≤ 4
     let single := ∀ t ∈ before,
       match t.kind with
       | .picture => kind ≠ 1
       | .sound _ _ => kind ≠ 2
       | .text slot _ => kind ≠ 3 ∨ slot.toNat ≠ raw 2 1
       | .automation => kind ≠ 4
     let line := if kind = 1 then Check.pictureTrack else if kind = 2 then .soundTrack
       else if kind = 3 then .textSlot else .automationTrack
     let format := kind = 2 → (raw 12 4 = 48000 ∨ raw 12 4 = 96000) ∧ 1 ≤ raw 2 1 ∧ raw 2 1 ≤ 16
     let slotted := kind = 3 → raw 2 1 ≤ 3
     let lettered := kind = 3 → ∀ j, j < 3 → 0x61 ≤ raw (12 + j) 1 ∧ raw (12 + j) 1 ≤ 0x7A
     let flagged := raw 1 1 % 2 = 1 → flag = true ∧ kind ≠ 4
     let spans := raw 8 4 = duration
     let named := raw 4 4 ≠ 0 ∧ BitVec.ofNat 32 (raw 4 4) ∉ ids
     (¬ known → fails .trackKind) ∧ (known → ¬ single → fails line) ∧
     (known → single → ¬ format → fails .soundFormat) ∧ (known → single → ¬ slotted → fails .textSlot) ∧
     (known → single → slotted → ¬ lettered → fails .textLanguage) ∧
     (known → single → format → slotted → lettered →
       (¬ flagged → fails .sealedFlag) ∧ (flagged → ¬ spans → fails .trackDuration) ∧
       (flagged → spans → ¬ named → fails .trackId) ∧
       (flagged → spans → named → ∃ t, result = .ok t ∧ t.id.toNat = raw 4 4 ∧
         t.isSealed = (raw 1 1 % 2 == 1) ∧ (kind = 1 → t.kind = .picture) ∧
         (kind = 2 → t.kind = .sound (raw 12 4) (raw 2 1)) ∧
         (∀ slot, kind = 3 → slot.toNat = raw 2 1 → t.kind = .text slot (slice bs 12 3)) ∧
         (kind = 4 → t.kind = .automation))))) ∧
  ∀ (sc : Idx4) (host : HostWrites) (h : Header) (s : State) (l : LoadInProgress), s.powered = true → s.settled →
    s.card.active = true → s.card.header = some h → (h.screens.get sc).enabled = true →
    (s.scan.get (.screen sc)).seeded = true → s.card.busFailed (.answerWrite (.screen sc)) = false →
    s.card.auto.latch = false → l.latched = false → (s.card.scr sc).seq.load = some l →
    (let m := s.mem.hostStore host
     let x := s.card.scr sc
     let failed := fun (t : State) (result : AnswerResult) (detail : List (Nat × Nat)) =>
       ({ x with seq := { x.seq with load := none } } : Screen).sameButFader (t.card.scr sc) ∧
         t.answered h (.screen sc) l.number result detail ∧ s.card.onlyScreen sc t.card ∧ s.sameOutside t
     (∀ f, s.card.checkLoad m h sc l = .error f →
       ∃ t, exec (.loadComplete sc host) s = .next t ∧
         (match f with
          | .badRecord k entry reel track =>
            failed t .badRecord [(1, entry.getD 255), (1, reel.getD 255), (1, track.getD 255), (1, k.code)] ∧
              m.sameOutside t.mem [h.answerSpan (.screen sc)]
          | .areaFault entry =>
            failed t .areaFault [(1, entry)] ∧ m.sameOutside t.mem [h.answerSpan (.screen sc)]
          | .memoryFault entry =>
            failed t .memoryFault [(1, entry)] ∧
              t.raised .booth .memoryFault = s.raised .booth .memoryFault + 1 ∧
              m.sameOutside t.mem [h.answerSpan (.screen sc), h.noticeSpan .booth .memoryFault])) ∧
     (64 < l.entryCount →
       ∃ t, exec (.loadComplete sc host) s = .next t ∧
         failed t .badRecord [(1, 255), (1, 255), (1, 255), (1, 16)] ∧
         m.sameOutside t.mem [h.answerSpan (.screen sc)]))

/-- LOAD_COMPLETE where every check passes (R17, R9, R10, R20, R26, R27, R29, R153): the answer is DONE, or CLAMPED with
its flags; the settings, the load number, the titles and every entry of the show list, with its kind, condition and
resolved cues, are installed, and the queues are empty. An empty list finishes the screen EMPTY. A first entry that is
always due is armed and current at its first frame: an INTERVAL of more than four seconds and a MARK leave the screen
READY, the MARK with its successor settled; an unsealed TITLE leaves it LOADING, with a new ARMED record and its feeds
at its first reel; so does a sealed one that a permit is chosen for, whose id the entry and the record keep and of which
one showing is reserved (R81, R84); a lone sealed one that no permit is chosen for is refused, ENTRY_REFUSED, and leaves
the screen EMPTY (R27, R82). An entry whose condition is false against the input sample, INPUT_SET of an inactive input
or INPUT_CLEAR of an active one, is PASSED, and the pass goes on to the first whose condition is true, which is armed,
here an INTERVAL, as the current entry or as the successor of a MARK; where none is true nothing is armed, and the
screen finishes EMPTY (R9, R26). The latch is clear throughout; the screen's passing READY at a set one is log 42. The
checks run over memory as it stands now, which is the model's (log 43). -/
def Obligations.LoadSuccessInstalls : Prop :=
  ∀ (sc : Idx4) (host : HostWrites) (h : Header) (s : State) (l : LoadInProgress) (b : LoadBuild), s.acts sc h →
    (s.scan.get (.screen sc)).seeded = true → s.card.auto.latch = false → l.latched = false →
    (s.card.scr sc).seq.load = some l → s.card.checkLoad (s.mem.hostStore host) h sc l = .ok b →
    ∃ t, exec (.loadComplete sc host) s = .next t ∧
      t.answered h (.screen sc) l.number (if l.clamped = 0 then .done else .clamped) [(2, l.clamped.toNat)] ∧
      s.sameOutside t ∧ (t.card.scr sc).pictureQueue = [] ∧ (t.card.scr sc).soundQueue = [] ∧
      (let q := (t.card.scr sc).seq
       let first := fun (st : ScreenState) => q.state = st ∧ q.current = some 0 ∧ q.position = some ⟨0, 0⟩ ∧
         (q.list[0]?).map (·.status) = some .armed
       q.load = none ∧ q.settings = l.settings ∧ q.loadNumber = some l.number ∧ q.titles = b.titles.map (·.2) ∧
       q.inProgress = false ∧ q.started = false ∧ q.startWhenReady = false ∧ q.list.length = l.entries.length ∧
       (∀ (i : Nat) (raw : RawEntry) (e : Entry), l.entries[i]? = some raw → q.list[i]? = some e →
         (raw.kind = 1 → ∃ k, e.kind = .title k ∧ k < q.titles.length) ∧
         (raw.kind = 2 → e.kind = .interval raw.seconds) ∧ (raw.kind = 3 → e.kind = .mark raw.holdAtMark) ∧
         (raw.condition = 1 → e.condition = .always) ∧ (raw.condition = 2 → e.condition = .inputSet raw.input) ∧
         (raw.condition = 3 → e.condition = .inputClear raw.input) ∧ e.cues.length = raw.cues.length ∧
         (∀ (k : Nat) (a : RawCue) (u : EntryCue), raw.cues[k]? = some a → e.cues[k]? = some u →
           u.code = a.code ∧ u.arg1 = a.arg1 ∧ u.arg2 = a.arg2 ∧
             ((q.durations i).take u.reel).sum + u.frame =
               if a.anchor = 1 then a.offset else (q.durations i).sum - a.offset)) ∧
       (l.entries = [] → q.state = .finished .empty ∧ q.current = none ∧ q.armed = none) ∧
       (∀ n cues rest, b.entries = { kind := .interval n, condition := .always, cues := cues } :: rest → 4 < n →
         first .ready ∧ q.armed = none ∧ q.settled = false ∧ q.nextLook = 1) ∧
       (∀ hold rest, b.entries = { kind := .mark hold, condition := .always, cues := [] } :: rest →
         first .ready ∧ q.settled = true ∧ (rest = [] → q.armed = none)) ∧
       (let due := fun (k : Condition) =>
          match k with
          | .always => True
          | .inputSet n => s.card.auto.inputs.getLsbD n = true
          | .inputClear n => s.card.auto.inputs.getLsbD n = false
        let passed := fun (i j : Nat) => ∀ k, i ≤ k → k < j → (q.list[k]?).map (·.status) = some .passed
        let armed := fun (i : Nat) => (q.list[i]?).map (·.status) = some .armed
        ((∀ e ∈ b.entries, ¬ due e.condition) →
          q.state = .finished .empty ∧ q.current = none ∧ q.armed = none ∧ passed 0 q.list.length ∧
          t.card.permits = s.card.permits ∧ t.card.counter.holding = s.card.counter.holding) ∧
        (∀ before n k cues rest, b.entries = before ++ { kind := .interval n, condition := k, cues := cues } :: rest →
          (∀ e ∈ before, ¬ due e.condition) → due k → 4 < n →
          q.state = .ready ∧ q.current = some before.length ∧ q.position = some ⟨0, 0⟩ ∧ armed before.length ∧
          passed 0 before.length ∧ q.armed = none ∧ q.nextLook = before.length + 1) ∧
        (∀ hold before n k cues rest, b.entries = { kind := .mark hold, condition := .always, cues := [] } ::
            (before ++ { kind := .interval n, condition := k, cues := cues } :: rest) →
          (∀ e ∈ before, ¬ due e.condition) → due k →
          first .ready ∧ q.armed = some (before.length + 1) ∧ armed (before.length + 1) ∧
          passed 1 (before.length + 1) ∧ q.nextLook = before.length + 2) ∧
        (∀ hold rest, b.entries = { kind := .mark hold, condition := .always, cues := [] } :: rest →
          (∀ e ∈ rest, ¬ due e.condition) → first .ready ∧ q.armed = none ∧ passed 1 q.list.length)) ∧
       (∀ k cues rest loc ti, b.entries = { kind := .title k, condition := .always, cues := cues } :: rest →
         b.titles[k]? = some (loc, ti) → ti.isSealed = false → 96 < ti.frames →
         0 < min l.settings.preroll ((ti.reels.map (·.duration)).getD 0 0) → s.card.counter.mayCreate = true →
         first .loading ∧ q.armed = none ∧ q.settled = false ∧ q.nextLook = 1 ∧
         (t.card.scr sc).currentFeeds = some (feedsFrom ti [] 0) ∧
         t.card.counter.nextNumber = s.card.counter.nextNumber + 1 ∧
         t.card.counter.holding = s.card.counter.holding ++ [({
           number := s.card.counter.nextNumber, screen := sc, load := l.number, entry := 0, title := ti.id
           permit := none, total := ti.frames, needed := ceilDiv (ti.frames * 900) 1000 } : ShowingRecord).withCheck]) ∧
       (∀ k cues rest loc ti, b.entries = { kind := .title k, condition := .always, cues := cues } :: rest →
         b.titles[k]? = some (loc, ti) → ti.isSealed = true →
         (∀ place pm, s.card.permits.choose sc ti = .ok (place, pm) → s.card.permits.byId pm.id = some (place, pm) →
           96 < ti.frames → 0 < min l.settings.preroll ((ti.reels.map (·.duration)).getD 0 0) →
           s.card.counter.mayCreate = true →
           first .loading ∧ q.armed = none ∧ q.settled = false ∧ q.nextLook = 1 ∧
           (q.list[0]?).map (·.permit) = some (some pm.id) ∧
           (∀ i, FMap.find t.card.permits.table i =
             if i = place then some { pm with pending := pm.pending + 1, users := pm.users + 1 }
             else FMap.find s.card.permits.table i) ∧
           t.card.counter.holding = s.card.counter.holding ++ [({
             number := s.card.counter.nextNumber, screen := sc, load := l.number, entry := 0, title := ti.id
             permit := some pm.id, total := ti.frames, needed := ceilDiv (ti.frames * pm.perMille) 1000 } :
             ShowingRecord).withCheck]) ∧
         (∀ f, s.card.permits.choose sc ti = .error f → rest = [] →
           q.state = .finished .empty ∧ q.current = none ∧ q.armed = none ∧
           (q.list[0]?).map (·.status) = some .passed ∧ t.card.permits = s.card.permits ∧
           t.card.counter.holding = s.card.counter.holding ∧
           t.raised (.screen sc) .entryRefused = s.raised (.screen sc) .entryRefused + 1)))

/-- START (R30, R31, R32, R47). With no readiness taken before it at this boundary: EMERGENCY while the latch is set;
NO_PROJECTOR in LOADING and READY with the link not UP; start-when-ready in LOADING; in READY the screen enters RUNNING
and its INTERVAL or TITLE is handled at this boundary, a TITLE's record being OPEN from its first frame on and its tally
set up (R149, R154), and a fault hold due there dropped, which is the model's (log 46); REFUSED_STATE in every other
state. A refusal changes nothing of the screen but that the last frame's transfer is settled (R135). Where readiness is
reached at this boundary and comes first, the screen is READY and the START is judged in it, so that it enters RUNNING
at once (R47); where the START is then refused, the boundary leaves READY and start-when-ready as they are, and
start-when-ready is judged at the next one (R29). -/
def Obligations.StartJudged : Prop :=
  ∀ (sc : Idx4) (r : RequestWord) (o : Order) (h : Header) (s : State), s.judges sc h r →
    (let x := s.card.scr sc
     let q := x.seq
     (o = .eventFirst → q.state = .loading → s.card.readyTest sc = true →
       ∃ t, exec (.start sc r o) s = .next t ∧ (t.scan.get (.screen sc)).lastTaken = r.number ∧ s.sameOutside t ∧
         (let q' := (t.card.scr sc).seq
          let changes := t.raised (.screen sc) .stateChange - s.raised (.screen sc) .stateChange
          (s.card.auto.latch = true ∨ x.port.link ≠ .up →
            q' = { q with state := .ready, handled := true, faultHoldDue := q.faultHoldDue && q.dueLater } ∧
            changes = 1 ∧
            t.answered h (.screen sc) r.number (if s.card.auto.latch then .emergency else .noProjector) ∧
            ∃ u, exec (.frameBoundary sc) t = .next u ∧ (u.card.scr sc).seq.state = .ready ∧
              (u.card.scr sc).seq.startWhenReady = q.startWhenReady) ∧
          (s.card.auto.latch = false → x.port.link = .up →
            t.answered h (.screen sc) r.number .done ∧
            ∀ i p, q.current = some i → q.position = some p →
              ((∃ e n, q.list[i]? = some e ∧ e.kind = .interval n) ∨
                q.title ≠ none ∧ headHolds x.pictureQueue i p.reel p.frame = true ∧
                  headHolds x.soundQueue i p.reel p.frame = true →
                q'.state = .running ∧ q'.inProgress = true ∧ q'.started = true ∧ q'.position = some p ∧
                  q'.startWhenReady = false ∧ q'.handled = true ∧ changes = 2 ∧
                  (∀ ti, q.title = some ti → q.started = false → s.startsPlay t sc i ti 0))))) ∧
     ((o = .requestFirst ∨ q.state ≠ .loading ∨ s.card.readyTest sc = false) →
     ∃ t, exec (.start sc r o) s = .next t ∧ (t.scan.get (.screen sc)).lastTaken = r.number ∧
       (let q' := (t.card.scr sc).seq
        let only := fun (result : AnswerResult) => s.answeredOnly t s.mem h sc x.settled r.number result
        (s.card.auto.latch = true → only .emergency) ∧
        (s.card.auto.latch = false →
          (q.state = .loading ∨ q.state = .ready → x.port.link ≠ .up → only .noProjector) ∧
          (q.state = .loading → x.port.link = .up →
            ({ x.settled with seq := { q with startWhenReady := true } } : Screen).sameButFader (t.card.scr sc) ∧
            t.answered h (.screen sc) r.number .done ∧
            s.mem.sameOutside t.mem [h.answerSpan (.screen sc)] ∧ s.card.onlyScreen sc t.card ∧ s.sameOutside t) ∧
          (q.state ≠ .loading → q.state ≠ .ready → only .refusedState) ∧
          (q.state = .ready → x.port.link = .up →
            t.answered h (.screen sc) r.number .done ∧ s.sameOutside t ∧
            (∀ sd, sd ≠ sc → (t.card.scr sd).seq = (s.card.scr sd).seq) ∧
            ∀ i p, q.current = some i → q.position = some p →
              (∀ e n, q.list[i]? = some e → e.kind = .interval n →
                q' = { q with
                  state := .running, startWhenReady := false, inProgress := true, started := true
                  presented := some ⟨i, p.reel, p.frame, false⟩, handled := true
                  faultHoldDue := q.faultHoldDue && q.dueLater }) ∧
              (q.title ≠ none →
                (headHolds x.pictureQueue i p.reel p.frame = true ∧ headHolds x.soundQueue i p.reel p.frame = true →
                  q'.state = .running ∧ q'.inProgress = true ∧ q'.started = true ∧
                  q'.presented = some ⟨i, p.reel, p.frame, true⟩ ∧ q'.position = some p ∧
                  (∀ ti, q.title = some ti → q.started = false → s.startsPlay t sc i ti 0)) ∧
                (headHolds x.pictureQueue i p.reel p.frame = false ∨
                    headHolds x.soundQueue i p.reel p.frame = false →
                  q'.state = .starved .starve ∧ q'.starveCount = 0 ∧ q'.position = some p ∧
                  q'.started = q.started)))))))

/-- HOLD (R36, R39, R47). Taken before any event of its boundary: a RUNNING or STARVED screen is HELD, of kind OPERATOR,
or FAULT where fault hold due is acted on there; the position stands and the starvation count is cleared. That a
completion which ends the entry comes before the hold that is due, which then stands, is the model's reading (log 16),
and so is the order of a request and the blocks' work of its boundary (log 2). In HELD the answer is DONE, and nothing
of the screen changes but that the last frame's transfer is settled (R135). Where the completion of the last frame of a
show with no successor, or the starvation limit, comes first, the screen is FINISHED, COMPLETE or STARVED_OUT, and the
HOLD is answered REFUSED_STATE; a HOLD taken before that completion is answered DONE, and the boundary finishes the
show. That fault hold due makes one change, to HELD(FAULT), is the model's (log 64). -/
def Obligations.HoldHoldsScreen : Prop :=
  ∀ (sc : Idx4) (r : RequestWord) (o : Order) (h : Header) (s : State), s.judges sc h r →
    (let x := s.card.scr sc
     let q := x.seq
     (o = .eventFirst → h.apart (.screen sc) →
       s.card.endsShow sc ∨ q.inProgress = false ∧ s.card.limitReached sc = true →
       ∃ t, exec (.hold sc r o) s = .next t ∧ t.answered h (.screen sc) r.number .refusedState ∧
         (t.scan.get (.screen sc)).lastTaken = r.number ∧ s.sameOutside t ∧
         (let q' := (t.card.scr sc).seq
          q'.state = .finished (if q.state = .running then .complete else .starvedOut) ∧ q'.inProgress = false ∧
            q'.armed = none ∧ q'.current = q.current)) ∧
     (o = .requestFirst → s.card.endsShow sc → q.handled = false →
       ∃ t u, exec (.hold sc r o) s = .next t ∧ t.answered h (.screen sc) r.number .done ∧
         exec (.frameBoundary sc) t = .next u ∧ (u.card.scr sc).seq.state = .finished .complete ∧
         (u.card.scr sc).seq.inProgress = false) ∧
     ((o = .requestFirst ∨ s.card.noEvent sc) → q.state = .running ∨ (∃ k, q.state = .starved k) →
       ∃ t, exec (.hold sc r o) s = .next t ∧
         ({ x.settled with seq := { q with
           state := .held
             (if q.faultHoldDue = true ∧ q.dueLater = false ∧ q.advance ≠ .entryEnd then .fault else .operator)
           starveCount := 0, holdTaken := true
           faultHoldDue := q.faultHoldDue && (q.dueLater || decide (q.advance = .entryEnd)) } } :
             Screen).sameButFader (t.card.scr sc) ∧
         t.answered h (.screen sc) r.number .done ∧
         s.mem.sameOutside t.mem [h.answerSpan (.screen sc), h.noticeSpan (.screen sc) .stateChange] ∧
         s.card.onlyScreen sc t.card ∧ s.sameOutside t) ∧
     ((o = .requestFirst ∨ s.card.noEvent sc) → (∃ k, q.state = .held k) →
       ∃ t, exec (.hold sc r o) s = .next t ∧ s.answeredOnly t s.mem h sc x.settled r.number .done))

/-- RESUME in HELD(OPERATOR) and HELD(MARK), and CONTINUE in HELD(FAULT) (R37): with an INTERVAL current the screen
enters RUNNING and the interval's frame at the position is presented; with a TITLE whose recovery test is not met it is
STARVED with reason STARVE and count 0, and with one whose test is met and whose heads hold the frame it is RUNNING, the
entry starting if it had not (R31, R149, R154). A MARK that has been reached passes, its successor being settled: the
armed INTERVAL or TITLE becomes current and is handled at this boundary in the same way, and with none armed the screen
is FINISHED, COMPLETE. The answer is DONE. A fault hold due at that boundary is dropped, which is the model's (log
46). -/
def Obligations.ResumeAndContinueRun : Prop :=
  ∀ (sc : Idx4) (r : RequestWord) (c : Instr) (k : HoldKind) (h : Header) (s : State), s.judges sc h r →
    (c = .resume sc r ∧ (k = .operator ∨ k = .mark) ∨ c = .continueHeld sc r ∧ k = .fault) →
    (let x := s.card.scr sc
     let q := x.seq
     (∀ i hold, q.state = .held k → q.current = some i → (q.list[i]?).map (·.kind) = some (.mark hold) →
      q.started = true → q.settled = true → q.inProgress = false →
      ∃ t, exec c s = .next t ∧ t.answered h (.screen sc) r.number .done ∧
        (t.scan.get (.screen sc)).lastTaken = r.number ∧ s.sameOutside t ∧
        (∀ sd, sd ≠ sc → (t.card.scr sd).seq = (s.card.scr sd).seq) ∧
        (let q' := (t.card.scr sc).seq
         q'.handled = true ∧ (q'.list[i]?).map (·.status) = some .passed ∧
         (q.armed = none → q'.state = .finished .complete ∧ q'.current = some i ∧ q'.inProgress = false) ∧
         (∀ j, q.armed = some j → q.shows j →
           (let held := fun (queue : List QueueItem) =>
              min q.settings.recovery (q.durations j).sum ≤ runLength (q.durations j) j queue 0 0 ∧
                headHolds queue j 0 0 = true
            s.handlesNext t sc j (held x.pictureQueue ∧ held x.soundQueue))))) ∧
     (∀ i p, q.state = .held k → q.current = some i → q.position = some p →
      ((∃ e n, q.list[i]? = some e ∧ e.kind = .interval n) ∨ q.title ≠ none) →
      ∃ t, exec c s = .next t ∧ t.answered h (.screen sc) r.number .done ∧
        (t.scan.get (.screen sc)).lastTaken = r.number ∧ s.sameOutside t ∧
        (∀ sd, sd ≠ sc → (t.card.scr sd).seq = (s.card.scr sd).seq) ∧
        (let q' := (t.card.scr sc).seq
         q'.handled = true ∧ q'.position = some p ∧ q'.current = some i ∧
         (∀ e n, q.list[i]? = some e → e.kind = .interval n →
           q' = { q with
             state := .running, startWhenReady := false, inProgress := true, started := true
             presented := some ⟨i, p.reel, p.frame, false⟩, handled := true
             faultHoldDue := q.faultHoldDue && q.dueLater }) ∧
         (q.title ≠ none → s.card.recoveryTest sc = false → q'.state = .starved .starve ∧ q'.starveCount = 0) ∧
         (q.title ≠ none → s.card.recoveryTest sc = true →
           headHolds x.pictureQueue i p.reel p.frame = true → headHolds x.soundQueue i p.reel p.frame = true →
           q'.state = .running ∧ q'.inProgress = true ∧ q'.started = true ∧
             (∀ ti, q.title = some ti → q.started = false → s.startsPlay t sc i ti 0)))))

/-- SKIP (R40, R35), the successor being settled: with an armed entry it becomes current at its first frame, and the
ended one is PASSED. READY stays READY where the new entry meets the readiness test, an INTERVAL or MARK at once, and
falls to LOADING where it does not; HELD keeps its kind but for MARK, which becomes OPERATOR. RUNNING handles the new
entry at this boundary: an INTERVAL's first frame is presented, and a TITLE's where the heads of both queues hold it,
the screen starving else. STARVED runs so where the recovery test is met, and else is STARVED(STARVE) with count 0,
raising STARVED. With none armed the screen is FINISHED with cause COMPLETE. A started TITLE's record is CLOSED as
SKIPPED, or COMPLETE where its delivered last frame completes at this boundary (R47, R155), with ENTRY_ENDED, and an
uncredited reservation released; one not started loses its ARMED record and its reservation (R28). The answer is DONE,
where the answer word lies apart from the booth sheet's answers. -/
def Obligations.SkipMovesOn : Prop :=
  ∀ (sc : Idx4) (r : RequestWord) (h : Header) (s : State) (i : Nat), s.judges sc h r →
    h.apart (.screen sc) →
    (let x := s.card.scr sc
     let q := x.seq
     let pictures := x.pictureQueue.filter (fun it => it.entry != i)
     let sounds := x.soundQueue.filter (fun it => it.entry != i)
     (q.state = .ready ∨ q.state = .running ∨ (∃ k, q.state = .held k) ∨ ∃ k, q.state = .starved k) →
     q.current = some i → q.settled = true →
     ∃ t, exec (.skip sc r) s = .next t ∧ t.answered h (.screen sc) r.number .done ∧
       (t.scan.get (.screen sc)).lastTaken = r.number ∧ s.sameOutside t ∧
       (∀ sd, sd ≠ sc → (t.card.scr sd).seq = (s.card.scr sd).seq) ∧
       (let q' := (t.card.scr sc).seq
        (∀ e n, q.list[i]? = some e → e.kind = .title n →
          s.endsRecord t sc i
            (if q.advance = .entryEnd ∧ x.port.lastDelivered = true then .complete else .skipped) ∧
          (q.armed = none → q.started = true → t.card.counter.plays.get sc = none) ∧
          (q.armsNone → s.freesPermits t sc i none) ∧
          t.raised (.screen sc) .entryEnded = s.raised (.screen sc) .entryEnded + (if q.started then 1 else 0)) ∧
        (∀ j, q.armed = some j →
          (i < q.list.length → (q'.list[i]?).map (·.status) = some .passed) ∧
          (q.state = .ready ∨ (∃ k, q.state = .held k) →
            q'.current = some j ∧ q'.position = some ⟨0, 0⟩ ∧ q'.started = false ∧ q'.inProgress = false ∧
            q'.startWhenReady = q.startWhenReady) ∧
          (q.state = .ready → q'.state = .ready ∨ q'.state = .loading) ∧
          (∀ k, q.state = .held k → q'.state = .held (if k = .mark then .operator else k)) ∧
          (∀ e, q.list[j]? = some e →
            (let whole := fun (ti : Title) => ∃ k, e.kind = .title k ∧ q.titles[k]? = some ti
             let depth := fun (ti : Title) (need : Nat) =>
               need ≤ runLength (ti.reels.map (·.duration)) j pictures 0 0 ∧
                 need ≤ runLength (ti.reels.map (·.duration)) j sounds 0 0
             let heads := headHolds pictures j 0 0 = true ∧ headHolds sounds j 0 0 = true
             (q.state = .ready →
               ((∀ k, e.kind ≠ .title k) → q'.state = .ready) ∧
               (∀ ti, whole ti →
                 (let need := min q.settings.preroll ((ti.reels.map (·.duration)).getD 0 0)
                  q'.state = if need ≤ runLength (ti.reels.map (·.duration)) j pictures 0 0 ∧
                      need ≤ runLength (ti.reels.map (·.duration)) j sounds 0 0 then .ready else .loading))) ∧
             (q.state = .running → q.shows j → s.handlesNext t sc j heads ∧ q'.handled = true) ∧
             ((∃ k, q.state = .starved k) → q.shows j →
               s.handlesNext t sc j ((∀ ti, whole ti → depth ti (min q.settings.recovery ti.frames)) ∧ heads) ∧
                 q'.handled = true)))) ∧
        (q.armed = none → q'.state = .finished .complete ∧ q'.inProgress = false)))

/-- REEL_JUMP on a TITLE (R41, R26, R47): the position becomes the reel's frame 0, the entry's references leave the
queues, its cues are released, a frame in progress is discarded, and each feed is set to the first reel from there on
that has its track, at frame 0 and sequence 0, or is complete (R52); HELD keeps its kind, RUNNING and STARVED become
STARVED(REPOSITION) with count 0, and STARVED is not raised; where 96 frames or fewer are left, from there or from a
reel that the completion begins, the successor is settled with it, and else no record and no permit changes. A
completion that ends a reel is made first, with its FAULT_TALLY (R166). A reel the title does not have is answered
BAD_ARGUMENT, and nothing of the screen changes but that the last frame's transfer is settled (R135). Where the
completion ends the entry, its successor being settled, the entry ends COMPLETE, with its record and reservation, the
show moves on, and the answer is REFUSED_STATE, where the answer word lies apart from the booth sheet's answers. -/
def Obligations.ReelJumpRepositions : Prop :=
  ∀ (sc : Idx4) (r : RequestWord) (reel : Byte) (h : Header) (s : State) (i : Nat) (ti : Title), s.judges sc h r →
    (let x := s.card.scr sc
     let q := x.seq
     (q.state = .running ∨ (∃ k, q.state = .held k) ∨ ∃ k, q.state = .starved k) →
     q.current = some i → q.title = some ti →
     (q.advance ≠ .entryEnd →
      ∃ t, exec (.reelJump sc r reel) s = .next t ∧
       (ti.reels.length ≤ reel.toNat → s.answeredOnly t s.mem h sc x.settled r.number .badArgument) ∧
       (reel.toNat < ti.reels.length →
         t.answered h (.screen sc) r.number .done ∧ s.sameOutside t ∧
         (∀ sd, sd ≠ sc → (t.card.scr sd).seq = (s.card.scr sd).seq) ∧ t.card.auto = s.card.auto ∧
         (let short := fun (n : Nat) => decide (((ti.reels.map (·.duration)).drop n).sum ≤ 96)
          let begun := match q.advance with | .reelEnd n => short (n + 1) | _ => false
          let ended := match q.advance with | .reelEnd _ => !(x.tallies.all (· == 0)) | _ => false
          let y := t.card.scr sc
          let q' := y.seq
          let state := match q.state with | .held k => ScreenState.held k | _ => .starved .reposition
          q'.state = state ∧ q'.current = some i ∧ q'.position = some ⟨reel.toNat, 0⟩ ∧ q'.inProgress = false ∧
          q'.starveCount = 0 ∧ q'.started = q.started ∧ q'.settled = (q.settled || begun || short reel.toNat) ∧
          (q.settled = true ∨ begun = false ∧ short reel.toNat = false →
            t.card.counter = s.card.counter ∧ t.card.permits = s.card.permits ∧ y.armedFeeds = x.armedFeeds ∧
            q' = { q with
              state := state, position := some ⟨reel.toNat, 0⟩, inProgress := false, starveCount := 0
              presented := none }) ∧
          t.raised (.screen sc) .starved = s.raised (.screen sc) .starved ∧
          t.raised (.screen sc) .faultTally = s.raised (.screen sc) .faultTally + (if ended then 1 else 0) ∧
          y.currentFeeds = x.currentFeeds.map (fun _ => feedsFrom ti (declinedTracks x.textKeys) reel.toNat) ∧
          (∀ fs rl kind track, y.currentFeeds = some fs → ti.reels[reel.toNat]? = some rl →
            rl.trackOf kind = some track → track.id ∉ declinedTracks x.textKeys →
            fs.get kind = { reel := reel.toNat, frame := 0, sequence := 0, complete := false }) ∧
          y.text.queue = [] ∧ y.text.overlay = [] ∧ y.text.captions = Quad.const [] ∧
          (∀ n k, FMap.find s.card.pool.held n = some k → k.owner = sc → FMap.find t.card.pool.held n = none) ∧
          y.pictureQueue = x.pictureQueue.filter (fun it => it.entry != i) ∧
          y.soundQueue = x.soundQueue.filter (fun it => it.entry != i)))) ∧
     (q.advance = .entryEnd → q.settled = true → h.apart (.screen sc) →
      ∃ t, exec (.reelJump sc r reel) s = .next t ∧ t.answered h (.screen sc) r.number .refusedState ∧
        (t.scan.get (.screen sc)).lastTaken = r.number ∧ s.sameOutside t ∧
        (∀ sd, sd ≠ sc → (t.card.scr sd).seq = (s.card.scr sd).seq) ∧
        (let q' := (t.card.scr sc).seq
         (q'.list[i]?).map (·.status) = some .passed ∧ q'.inProgress = false ∧ s.endsRecord t sc i .complete ∧
         (q.armsNone → s.freesPermits t sc i none) ∧
         t.raised (.screen sc) .entryEnded = s.raised (.screen sc) .entryEnded + (if q.started then 1 else 0) ∧
         (q.armed = none → q'.state = .finished .complete ∧ q'.current = some i) ∧
         (∀ j, q.armed = some j →
           q'.state = q.state ∧ q'.current = some j ∧ q'.position = some ⟨0, 0⟩ ∧ q'.started = false))))

/-- STOP (R42, R34, R125, R155) in LOADING, READY, RUNNING, HELD and STARVED: the screen is FINISHED with cause STOPPED,
nothing is armed, no frame in progress, start-when-ready or fault hold is left, and no cue in the queue, the overlay set
or a caption set. The OPEN record of a started TITLE is CLOSED as STOPPED, or COMPLETE where its delivered last frame
completes at this boundary (R47); a TITLE that had not started, current or armed, loses its ARMED record, and what is
reserved uncredited is released (R28, R84). The answer is DONE, where the answer word lies apart from the booth sheet's
answers. -/
def Obligations.StopFinishesScreen : Prop :=
  ∀ (sc : Idx4) (r : RequestWord) (h : Header) (s : State), s.judges sc h r → h.apart (.screen sc) →
    (let x := s.card.scr sc
     let q := x.seq
     q.state ≠ .dark → (∀ k, q.state ≠ .finished k) →
     ∃ t, exec (.stop sc r) s = .next t ∧ t.answered h (.screen sc) r.number .done ∧
       (t.scan.get (.screen sc)).lastTaken = r.number ∧ s.sameOutside t ∧
       (∀ sd, sd ≠ sc → (t.card.scr sd).seq = (s.card.scr sd).seq) ∧ t.card.auto = s.card.auto ∧
       (let q' := (t.card.scr sc).seq
        q'.state = .finished .stopped ∧ q'.armed = none ∧ q'.inProgress = false ∧ q'.startWhenReady = false ∧
        q'.faultHoldDue = false ∧ q'.settings = q.settings ∧ q'.loadNumber = q.loadNumber) ∧
       (q.current ≠ none → (t.card.scr sc).text.queue = [] ∧ (t.card.scr sc).text.overlay = [] ∧
         (t.card.scr sc).text.captions = Quad.const []) ∧
       (∀ i e n, q.current = some i → q.list[i]? = some e → e.kind = .title n →
         s.endsRecord t sc i (if q.advance = .entryEnd ∧ x.port.lastDelivered = true then .complete else .stopped) ∧
         t.card.counter.plays.get sc = (if q.started then none else s.card.counter.plays.get sc) ∧
         (q.settled = true → s.freesPermits t sc i q.armed)) ∧
       (∀ j, q.armed = some j → q.settled = true →
         ∀ k ∈ t.card.counter.holding, k.screen = sc → k.entry = j → k.state ≠ .armed))

/-- UNLOAD (R43, R21): in DARK it is answered DONE, and nothing of the screen changes but that the last frame's transfer
is settled (R135); in LOADING, READY, HELD and FINISHED the screen is DARK with the values of R21 for it, its settings
copy kept, its queues and fault counts emptied; a started TITLE's record is CLOSED as UNLOADED (R155), a TITLE that had
not started, current or armed, loses its ARMED record, and what is reserved uncredited is released (R28, R34, R84); in
FINISHED no record and no permit changes. The answer is DONE, where the answer word lies apart from the booth sheet's
answers. Where the completion of the last frame of a show with no successor comes first, the entry ends, COMPLETE, and
the UNLOAD is taken in FINISHED (R47). -/
def Obligations.UnloadDarkensScreen : Prop :=
  ∀ (sc : Idx4) (r : RequestWord) (o : Order) (h : Header) (s : State), s.judges sc h r → h.apart (.screen sc) →
    (let q := (s.card.scr sc).seq
     let darkens := fun (t : State) => t.answered h (.screen sc) r.number .done ∧ s.sameOutside t ∧
         (∀ sd, sd ≠ sc → (t.card.scr sd).seq = (s.card.scr sd).seq) ∧ t.card.auto = s.card.auto ∧
         (let y := t.card.scr sc
          y.seq = { settings := q.settings } ∧ y.pictureQueue = [] ∧ y.soundQueue = [] ∧ y.currentFeeds = none ∧
          y.armedFeeds = none ∧ y.textKeys = [] ∧ y.tallies = List.replicate 17 0 ∧ y.port.staged = none ∧
          y.sound.staged = none)
     (o = .eventFirst → s.card.endsShow sc →
       ∃ t, exec (.unload sc r o) s = .next t ∧ darkens t ∧
         t.raised (.screen sc) .entryEnded = s.raised (.screen sc) .entryEnded +
           (if q.entry = none ∨ q.atMark = true then 0 else 1) ∧
         (∀ i e n, q.current = some i → q.list[i]? = some e → e.kind = .title n →
           s.endsRecord t sc i .complete ∧ s.freesPermits t sc i none)) ∧
     ((o = .requestFirst ∨ s.card.noEvent sc) → q.state = .dark →
       ∃ t, exec (.unload sc r o) s = .next t ∧
         s.answeredOnly t s.mem h sc (s.card.scr sc).settled r.number .done) ∧
     ((o = .requestFirst ∨ s.card.noEvent sc) →
       q.state = .loading ∨ q.state = .ready ∨ (∃ k, q.state = .held k) ∨ (∃ k, q.state = .finished k) →
       ∃ t, exec (.unload sc r o) s = .next t ∧ darkens t ∧
         ((∃ k, q.state = .finished k) → t.card.counter = s.card.counter ∧ t.card.permits = s.card.permits) ∧
         ((∀ k, q.state ≠ .finished k) →
           (∀ i e n, q.current = some i → q.list[i]? = some e → e.kind = .title n →
             s.endsRecord t sc i .unloaded ∧ (q.settled = true → s.freesPermits t sc i q.armed)) ∧
           (∀ j, q.armed = some j → q.settled = true →
             ∀ k ∈ t.card.counter.holding, k.screen = sc → k.entry = j → k.state ≠ .armed))))

/-- The four SET requests (R14, R11, R13, R101, R106, R108, R118), taken in every state: each stores its part of the
settings block, brought into its range, in the settings copy, hands it to its block, and is answered CLAMPED with its
flags if a value was clamped, else DONE. A SET_LEVEL on a screen that is heard makes the new level the fader's target,
with the step that the fade time gives (R104); on a muted one the target stays 0 and the fade time is discarded. A
SET_LIPSYNC with no dip and the master at 0 changes the delay at once; with the master above 0 it leaves the new delay
pending with the dip DOWN; with a dip in progress and the master at 0 that DOWN ends at once (R109). No other byte of
booth memory is written. -/
def Obligations.SetRequestsStoreSettings : Prop :=
  ∀ (sc : Idx4) (r : RequestWord) (host : HostWrites) (h : Header) (s : State), s.judges sc h r →
    (let m := s.mem.hostStore host
     let raw := fun off w => m.field (h.settingsAddr sc + off) w
     let x := s.card.scr sc
     let q := x.seq
     let after := fun (t : State) (result : AnswerResult) (flags : Nat) (settings : Settings) =>
       t.answered h (.screen sc) r.number result [(2, flags)] ∧
         (t.card.scr sc).seq = { q with settings := settings } ∧ m.sameOutside t.mem [h.answerSpan (.screen sc)] ∧
         (t.scan.get (.screen sc)).lastTaken = r.number ∧ s.card.onlyScreen sc t.card ∧ s.sameOutside t
     (∀ fade : U32, ∃ t, exec (.setLevel sc r fade host) s = .next t ∧
       after t (if raw 6 2 ≤ 16384 ∧ fade.toNat ≤ 10000 then .done else .clamped)
         ((if raw 6 2 ≤ 16384 then 0 else 32) + (if fade.toNat ≤ 10000 then 0 else 256))
         { q.settings with level := min 16384 (raw 6 2) } ∧
       (let level := min 16384 (raw 6 2)
        let y := (t.card.scr sc).sound
        let n := min 10000 fade.toNat * x.sound.linkRate / 1000
        let d := (level - x.sound.master) + (x.sound.master - level)
        let muted := q.state ≠ .running ∨ q.atInterval = true ∨ s.card.auto.latch = true ∨ x.sound.dip = .down
        (¬ muted → y = { x.sound with
          level := level, target := level, fadeOut := y.fadeOut
          step := if x.sound.target = level then x.sound.step else max 1 (if n = 0 then d else ceilDiv d n) }) ∧
        (muted → y.target = 0 ∧
          y = { x.sound with level := level, target := 0, step := y.step } ∧
          (x.sound.target = 0 → y.step = x.sound.step)))) ∧
     (∃ t, exec (.setLipsync sc r host) s = .next t ∧
       after t (if raw 8 2 ≤ 8191 then .done else .clamped) (if raw 8 2 ≤ 8191 then 0 else 64)
         { q.settings with lipsync := min 8191 (raw 8 2) } ∧
       (let d := min 8191 (raw 8 2)
        let v := x.sound
        let y := (t.card.scr sc).sound
        let mute := if v.linkRate = 96000 then 192 else 96
        let quiet := q.state ≠ .running ∨ q.atInterval = true ∨ s.card.auto.latch = true
        (v.dip = .none → v.master = 0 →
          y = { v with delay := d, target := y.target, step := y.step }) ∧
        (v.master ≠ 0 → y = { v with pendingDelay := some d, dip := .down, target := 0, step := y.step } ∧
          (v.dip = .none → y.step = if v.target = 0 then v.step else max 1 (ceilDiv v.master mute)) ∧
          (v.dip = .down → v.target = 0 → y.step = v.step) ∧
          (v.dip = .up → y.step = max 1 (ceilDiv v.master mute))) ∧
        (∀ tgt, v.dip ≠ .none → v.master = 0 → (quiet → tgt = 0) → (¬ quiet → tgt = v.level) →
          y = { v with
            delay := d, pendingDelay := none, dip := if tgt = 0 then .none else .up, target := tgt, step := y.step } ∧
          (tgt ≠ 0 → v.dip = .up ∨ v.target = 0 → y.step = max 1 (ceilDiv tgt mute))))) ∧
     (∃ t, exec (.setRoutes sc r host) s = .next t ∧
       (let rs := routesOf (m.readBytes (h.settingsAddr sc) 144)
        after t (if rs.2.1 || rs.2.2 then .clamped else .done)
          ((if rs.2.1 then 8 else 0) + (if rs.2.2 then 128 else 0)) { q.settings with routes := rs.1 } ∧
        (t.card.scr sc).sound.newRoutes = some rs.1 ∧ (t.card.scr sc).sound.routes = x.sound.routes ∧
        rs.1.length ≤ 32 ∧ (∀ k ∈ rs.1, k.source ≤ 15 ∧ k.output ≤ 15 ∧ k.gain ≤ 32767) ∧
        rs.2.1 = decide (32 < raw 3 1))) ∧
     (∃ t, exec (.setLanguages sc r host) s = .next t ∧
       (let slot := Idx4.ofNat? (raw 4 1)
        let ok : Bool := slot.isSome || decide (raw 4 1 = 255)
        after t (if ok then .done else .clamped) (if ok then 0 else 16)
          { q.settings with overlay := slot, captions := BitVec.ofNat 4 (raw 5 1) } ∧
        (t.card.scr sc).text.pendingSelection = some ⟨slot, BitVec.ofNat 4 (raw 5 1)⟩ ∧
        (t.card.scr sc).text.selection = x.text.selection)))

/-- KEY_ANSWER (R86, R87, R57), judged once the completion of its boundary is made (R47): for a track not HELD it is
answered REFUSED_STATE; with an unknown answer code BAD_ARGUMENT; with DECLINE, or with VALID where no permit lends a
key, the track is DECLINED and the feed that stands at it moves on; with VALID and a lender it is LENT the first such
permit's key, and intake judges its chunks again at the next tick. Nothing else of the screen changes but that the last
frame's transfer is settled (R135) and a frame that does not end its reel completes. Where the completion ends the reel,
the answer is by the table as it stood; where it ends the entry, the table is empty (R88) and the answer is
REFUSED_STATE whatever the track, where the answer word lies apart from the booth sheet's answers. -/
def Obligations.KeyAnswerSettlesTrack : Prop :=
  ∀ (sc : Idx4) (r : RequestWord) (track : U32) (code : Byte) (h : Header) (s : State), s.judges sc h r →
    (let q := (s.card.scr sc).seq
     let x := { (s.card.scr sc).settled with seq :=
       if q.advance = .within then
         { q with position := q.position.map (fun p => ⟨p.reel, p.frame + 1⟩), inProgress := false }
       else q }
     let entry := textKeyOf x.textKeys track
     let become := fun (t : State) (st : TextKeyState) (fresh : Bool) (feeds : Option Feeds) =>
       ({ x with
         textKeys := x.textKeys.map (fun k => if k.track = track then { k with state := st, fresh := fresh } else k)
         currentFeeds := feeds } : Screen).sameButFader (t.card.scr sc) ∧
         s.mem.sameOutside t.mem [h.answerSpan (.screen sc)] ∧ s.card.onlyScreen sc t.card ∧ s.sameOutside t
     let lends := fun (p : Permit) (key : BitVec 128) => ∃ ti, x.seq.title = some ti ∧ p.state = .active ∧
       p.title = ti.id ∧ p.mask.getLsbD sc.toNat = true ∧ p.validFrom.toNat ≤ s.card.permits.clock.toNat ∧
       s.card.permits.clock.toNat < p.validUntil.toNat ∧ p.keyOf track = some key
     ∃ t, exec (.keyAnswer sc r track code) s = .next t ∧
       (∀ sd, sd ≠ sc → (t.card.scr sd).seq = (s.card.scr sd).seq) ∧ s.sameOutside t ∧
       (q.advance = .entryEnd → h.apart (.screen sc) →
         t.answered h (.screen sc) r.number .refusedState ∧ (t.card.scr sc).textKeys = []) ∧
       (∀ k, q.advance = .reelEnd k →
         (entry.map (·.state) ≠ some .held → t.answered h (.screen sc) r.number .refusedState) ∧
         (entry.map (·.state) = some .held → code ≠ 1 → code ≠ 2 → t.answered h (.screen sc) r.number .badArgument) ∧
         (entry.map (·.state) = some .held → code = 2 → t.answered h (.screen sc) r.number .done [(1, 3)])) ∧
       (q.advance = .none ∨ q.advance = .within ∧ q.settled = true →
        (entry.map (·.state) ≠ some .held → s.answeredOnly t s.mem h sc x r.number .refusedState) ∧
        (entry.map (·.state) = some .held →
         (code ≠ 1 → code ≠ 2 → s.answeredOnly t s.mem h sc x r.number .badArgument) ∧
         (code = 2 ∨ (code = 1 ∧ ∀ y ∈ s.card.permits.table, ∀ key, ¬ lends y.2 key) →
           become t .declined false (t.card.scr sc).currentFeeds ∧
           t.answered h (.screen sc) r.number .done [(1, 3)] ∧
           (∀ ti fs, x.seq.title = some ti → x.currentFeeds = some fs →
             ∃ fs', (t.card.scr sc).currentFeeds = some fs' ∧
               ∀ k, fs'.get k =
                 if (fs.get k).complete = false ∧
                     ((ti.reels[(fs.get k).reel]?).bind (·.trackOf k)).map (·.id) = some track then
                   feedFrom ti.reels k (declinedTracks (t.card.scr sc).textKeys) ((fs.get k).reel + 1)
                 else fs.get k)) ∧
         (code = 1 → ∀ before place p after key, s.card.permits.table = before ++ (place, p) :: after →
           (∀ y ∈ before, ∀ k, ¬ lends y.2 k) → lends p key →
           become t (.lent key p.id) true x.currentFeeds ∧
           t.answered h (.screen sc) r.number .done [(1, 2), (4, p.id.toNat)]))))

/-- A request with a code outside its sheet's set (R25, R74, R146, R178, 12.3) is answered UNKNOWN_REQUEST: on a screen
sheet of a RUNNING engine nothing else of the screen changes but that the last frame's transfer is settled (R135), on
the booth sheet and the key sheet nothing else of the card. The sets: 1 to 14 are the screen requests in the order of
12.3, 32 to 35 the key sheet's and 48 the booth sheet's. -/
def Obligations.UnknownRequestAnswered : Prop :=
  (∀ (r : RequestWord) (code : U16) (h : Header) (s : State),
    (∀ sc, s.judges sc h r → ¬ (1 ≤ code.toNat ∧ code.toNat ≤ 14) →
      ∃ t, exec (.unknownRequest (.screen sc) r code) s = .next t ∧
        s.answeredOnly t s.mem h sc (s.card.scr sc).settled r.number .unknownRequest) ∧
    (∀ sh, sh = .booth ∧ code.toNat ≠ 48 ∨ sh = .key ∧ ¬ (32 ≤ code.toNat ∧ code.toNat ≤ 35) → s.takes sh h r →
      ∃ t, exec (.unknownRequest sh r code) s = .next t ∧ t.answered h sh r.number .unknownRequest ∧
        s.mem.sameOutside t.mem [h.answerSpan sh] ∧ s.card.sameButFaders t.card ∧ s.sameOutside t)) ∧
  (∀ (sc : Idx4) (r : RequestWord) (o : Order) (host : HostWrites) (a : Byte) (u : U32) (v : U64) (bs : List Byte),
    [Instr.load sc r o host, .start sc r o, .hold sc r o, .resume sc r, .continueHeld sc r, .skip sc r,
     .reelJump sc r a, .stop sc r, .unload sc r o, .setLevel sc r u host, .setLipsync sc r host, .setRoutes sc r host,
     .setLanguages sc r host, .keyAnswer sc r u a].map Instr.requestCode =
      [1, 2, 3, 4, 5, 6, 7, 8, 9, 10, 11, 12, 13, 14].map some ∧
    [Instr.permitAdd r bs, .permitRemove r u, .permitWipe r, .clockSet r v, .clearEmergency r].map
      Instr.requestCode = [32, 33, 34, 35, 48].map some) ∧
  (∀ (sh : Sheet) (k : Nat), sh.knowsCode k =
    match sh with
    | .screen _ => decide (1 ≤ k ∧ k ≤ 14)
    | .booth => decide (k = 48)
    | .key => decide (32 ≤ k ∧ k ≤ 35))

/-! ## Requests of the key sheet and the booth sheet -/

/-- PERMIT_ADD (R75, R78, R72): a block that fails its checks is answered BAD_RECORD with the field, a known permit id
DUPLICATE, a full table TABLE_FULL, each leaving the card as it was; else the record stands in the lowest free place,
ACTIVE and counted 0, with its record check computed, PERMIT_CHANGE is raised and the answer is DONE with the place, in
one byte (log 49). That the check value of a block whose key count is above 7 is taken over seven key entries is the
model's (log 71). The block's checks, in R75's order, are the check value over its fields (12.7), the permit id, the
screen mask, the window, the credit per mille and the keys, and the record takes its fields from the block. -/
def Obligations.PermitAddJudged : Prop :=
  (∀ block : List Byte,
    (let raw := fun (off w : Nat) => fieldAt block off w
     let track := fun (k : Nat) => raw (40 + 24 * k) 4
     let checked := checkValue (block.take 36 ++ slice block 40 (24 * min 7 (raw 5 1))) = BitVec.ofNat 32 (raw 36 4)
     let named := raw 0 4 ≠ 0
     let masked := 1 ≤ raw 4 1 ∧ raw 4 1 ≤ 15
     let open' := raw 16 8 < raw 24 8
     let rated := 500 ≤ raw 32 2 ∧ raw 32 2 ≤ 1000
     let keyed := 1 ≤ raw 5 1 ∧ raw 5 1 ≤ 7 ∧ (∀ k, k < raw 5 1 → track k ≠ 0) ∧
       ∀ j k, j < k → k < raw 5 1 → track j ≠ track k
     (¬ checked → permitOf block = .error .check) ∧ (checked → ¬ named → permitOf block = .error .permitId) ∧
     (checked → named → ¬ masked → permitOf block = .error .screenMask) ∧
     (checked → named → masked → ¬ open' → permitOf block = .error .window) ∧
     (checked → named → masked → open' → ¬ rated → permitOf block = .error .perMille) ∧
     (checked → named → masked → open' → rated → ¬ keyed → permitOf block = .error .keys) ∧
     (checked → named → masked → open' → rated → keyed → ∃ p, permitOf block = .ok p ∧
       p.id.toNat = raw 0 4 ∧ p.title.toNat = raw 8 8 ∧ p.mask.toNat = raw 4 1 ∧ p.validFrom.toNat = raw 16 8 ∧
       p.validUntil.toNat = raw 24 8 ∧ p.allowance = raw 6 2 ∧ p.perMille = raw 32 2 ∧ p.keys.length = raw 5 1 ∧
       ∀ (k : Nat) (e : PermitKey), p.keys[k]? = some e →
         e.track.toNat = track k ∧ e.value.toNat = raw (48 + 24 * k) 16)) ∧
    [Check.check, .permitId, .screenMask, .window, .perMille, .keys].map Check.code = [21, 22, 23, 24, 25, 26]) ∧
  (∀ (r : RequestWord) (block : List Byte) (h : Header) (s : State), s.takes .key h r →
    (let table := s.card.permits.table
     let refused := fun (t : State) (result : AnswerResult) (detail : List (Nat × Nat)) =>
       t.answered h .key r.number result detail ∧ s.card.sameButFaders t.card ∧
         s.mem.sameOutside t.mem [h.answerSpan .key] ∧ s.sameOutside t
     ∃ t, exec (.permitAdd r block) s = .next t ∧
       (∀ k, permitOf block = .error k → refused t .badRecord [(1, k.code)]) ∧
       (∀ p, permitOf block = .ok p →
         (∀ y ∈ table, y.2.id = p.id → refused t .duplicate []) ∧
         ((∀ y ∈ table, y.2.id ≠ p.id) →
           ((∀ i, i < 32 → FMap.find table i ≠ none) → refused t .tableFull []) ∧
           (∀ place, place < 32 → FMap.find table place = none → (∀ i, i < place → FMap.find table i ≠ none) →
             p.state = .active ∧ p.counted = 0 ∧ p.pending = 0 ∧ p.users = 0 ∧ p.withCheck.checkHolds = true ∧
             t.answered h .key r.number .done [(1, place)] ∧
             (∀ i, FMap.find t.card.permits.table i = if i = place then some p.withCheck else FMap.find table i) ∧
             ({ s.card with permits := { s.card.permits with table := t.card.permits.table } } : Card).sameButFaders
               t.card ∧
             t.card.permitDue = true ∧ t.raised .key .permitChange = s.raised .key .permitChange + 1 ∧
             s.mem.sameOutside t.mem [h.answerSpan .key, h.noticeSpan .key .permitChange] ∧ s.sameOutside t)))))

/-- PERMIT_REMOVE (R76): NOT_FOUND; a record that is not referenced, or DAMAGED, leaves its place; a referenced ACTIVE
one becomes RETIRING, its record check written anew (R72); a RETIRING one is unchanged. PERMIT_WIPE (R77): every record
that is not referenced goes, every referenced ACTIVE one becomes RETIRING, each raising PERMIT_CHANGE once, and a
referenced RETIRING one is unchanged; the answer is DONE with the numbers removed and left. -/
def Obligations.PermitRemovalJudged : Prop :=
  (∀ (r : RequestWord) (id : U32) (h : Header) (s : State), s.takes .key h r →
    (let table := s.card.permits.table
     let changed := fun (t : State) (at' : Nat) (v : Option Permit) =>
       (∀ i, FMap.find t.card.permits.table i = if i = at' then v else FMap.find table i) ∧
         ({ s.card with permits := { s.card.permits with table := t.card.permits.table } } : Card).sameButFaders
           t.card ∧
         t.card.permitDue = true ∧ t.raised .key .permitChange = s.raised .key .permitChange + 1 ∧
         s.mem.sameOutside t.mem [h.answerSpan .key, h.noticeSpan .key .permitChange] ∧ s.sameOutside t
     let unchanged := fun (t : State) =>
       s.card.sameButFaders t.card ∧ s.mem.sameOutside t.mem [h.answerSpan .key] ∧ s.sameOutside t
     ∃ t, exec (.permitRemove r id) s = .next t ∧
       ((∀ y ∈ table, y.2.id ≠ id) → t.answered h .key r.number .notFound ∧ unchanged t) ∧
       (∀ place p, FMap.find table place = some p → p.id = id → (∀ y ∈ table, y.2.id = id → y = (place, p)) →
         (p.state = .active → p.users = 0 → t.answered h .key r.number .done ∧ changed t place none) ∧
         (p.state = .active → p.users ≠ 0 → t.answered h .key r.number .done [(1, 1)] ∧
           changed t place (some ({ p with state := .retiring } : Permit).withCheck)) ∧
         (p.state = .retiring → t.answered h .key r.number .done [(1, 1)] ∧ unchanged t) ∧
         (p.state = .damaged → t.answered h .key r.number .done ∧ changed t place none)))) ∧
  (∀ (r : RequestWord) (h : Header) (s : State), s.takes .key h r → FMap.Sorted s.card.permits.table →
    (let table := s.card.permits.table
     ∃ t, exec (.permitWipe r) s = .next t ∧
       (∀ i, FMap.find t.card.permits.table i =
         match FMap.find table i with
         | none => none
         | some p =>
           if p.users = 0 then none
           else if p.state = .active then some ({ p with state := .retiring } : Permit).withCheck else some p) ∧
       t.answered h .key r.number .done
         [(1, (table.filter (fun x => x.2.users == 0)).length), (1, (table.filter (fun x => x.2.users != 0)).length)] ∧
       t.raised .key .permitChange = s.raised .key .permitChange +
         BitVec.ofNat 32 (table.filter (fun x => x.2.users == 0 || x.2.state == .active)).length ∧
       ({ s.card with permits := { s.card.permits with table := t.card.permits.table } } : Card).sameButFaders t.card ∧
       s.mem.sameOutside t.mem [h.answerSpan .key, h.noticeSpan .key .permitChange] ∧ s.sameOutside t))

/-- CLOCK_SET and the second (R79, R80): an unset clock, or one within 600 s of the new time on either side, takes it
and is set, CLOCK_CHANGE being raised; a clock further away is answered CLOCK_STEP with its count and stands. A second
adds one to a clock that is set, with main power or without (log 26), and leaves one that is unset. That the count
stands at the first byte of the answer's detail is the model's (log 68). -/
def Obligations.ClockTakesTimeAndCounts : Prop :=
  (∀ (r : RequestWord) (time : U64) (h : Header) (s : State), s.takes .key h r →
    (let old := s.card.permits.clock
     let near := old.toNat ≤ time.toNat + 600 ∧ time.toNat ≤ old.toNat + 600
     ∃ t, exec (.clockSet r time) s = .next t ∧
       (s.card.permits.clockSet = false ∨ near →
         t.answered h .key r.number .done ∧ t.raised .key .clockChange = s.raised .key .clockChange + 1 ∧
         ({ s.card with permits := { s.card.permits with clock := time, clockSet := true } } : Card).sameButFaders
           t.card ∧
         t.card.permitDue = true ∧
         s.mem.sameOutside t.mem [h.answerSpan .key, h.noticeSpan .key .clockChange] ∧ s.sameOutside t) ∧
       (s.card.permits.clockSet = true → ¬ near →
         t.answered h .key r.number .clockStep [(8, old.toNat)] ∧ s.card.sameButFaders t.card ∧
         s.mem.sameOutside t.mem [h.answerSpan .key] ∧ s.sameOutside t))) ∧
  (∀ s : State, exec .boothClockSecond s = .next { s with card := { s.card with permits := { s.card.permits with
    clock := if s.card.permits.clockSet then s.card.permits.clock + 1 else s.card.permits.clock } } })

/-- R146: CLEAR_EMERGENCY is judged against the emergency sample and the latch as they stand: with the sample active
nothing changes and the answer is REFUSED_STATE; else the latch and the notice owed are cleared, the answer DONE, with
detail NOT_SET where the latch was clear and nothing changes. -/
def Obligations.ClearEmergencyJudged : Prop :=
  ∀ (r : RequestWord) (h : Header) (s : State), s.takes .booth h r →
    ∃ t, exec (.clearEmergency r) s = .next t ∧
      (s.card.auto.emergencySample = true →
        t.answered h .booth r.number .refusedState ∧ s.card.sameButFaders t.card) ∧
      (s.card.auto.emergencySample = false → s.card.auto.latch = true →
        t.answered h .booth r.number .done ∧
        ({ s.card with auto := { s.card.auto with latch := false, owed := none } } : Card).sameButFaders t.card) ∧
      (s.card.auto.emergencySample = false → s.card.auto.latch = false →
        t.answered h .booth r.number .done [(1, 4)] ∧ s.card.sameButFaders t.card) ∧
      s.mem.sameOutside t.mem [h.answerSpan .booth] ∧ s.sameOutside t

/-! ## Intake, units at play and the bus -/

/-- The offer scan and the judging of chunks (R50, R53, R56, R57, R68). At a booth tick of an active engine with its
sheets seeded the directory is refreshed and then judged. A slot with a new offer and no entry gets one, with its
header's fields; an entry whose offer stands is left; one whose offer goes or changes is removed, replaced, marked
changed while in fetch, or withdrawn while in use, when no reference of it stays in a queue but a staged one and the
queues keep their depth. The entries are judged in slot order, which is the model's (log 72), each by R53's steps in
order. A candidate of a sealed TEXT track that is not in the text key table and for which the entry's permit has no key
makes a table entry and raises KEY_WANTED: HELD, the chunk staying offered, or DECLINED where four are held, the chunk
answered RELEASED and the track's feed moving on (R57, R86). -/
def Obligations.OfferScanAndJudging : Prop :=
  (∀ (inputs : BitVec 8) (host : HostWrites) (h : Header) (s : State), s.calm → s.card.active = true →
    s.card.header = some h → (∀ sh, h.scans sh = true → (s.scan.get sh).seeded = true) →
    ((s.scan.get .booth).place .memoryFault).retry = false → (∀ x ∈ s.card.slots, x.seedPending = false) →
    ∃ (t : State) (c : Card), exec (.boothTick inputs ⟨false, []⟩ host) s = .next t ∧ c.slots = s.card.slots ∧
      c.directory = s.card.directory ∧ c.screens = s.card.screens ∧ c.header = s.card.header ∧
      c.permits = s.card.permits ∧ c.bus = [] ∧
      t.card.directory = ((c.refreshDirectory (s.mem.hostStore host) h).judgeAll).directory ∧
      (∀ sc, (t.card.scr sc).textKeys =
          (((c.refreshDirectory (s.mem.hostStore host) h).judgeAll).scr sc).textKeys ∧
        t.raised (.screen sc) .keyWanted + BitVec.ofNat 32 (s.card.scr sc).textKeys.length =
          s.raised (.screen sc) .keyWanted + BitVec.ofNat 32 (t.card.scr sc).textKeys.length)) ∧
  (∀ c : Card, ∃ c' : Card, c.judgeAll = c.directory.foldl Card.judgeAtTick c' ∧ c' = { c with screens := c'.screens } ∧
    ∀ sc, c'.scr sc = { c.scr sc with
      textKeys := (c.scr sc).textKeys.map (fun (k : TextKey) => { k with fresh := false }) }) ∧
  (∀ (c : Card) (e : DirEntry), e.standing = .offered →
    (∀ r, c.judge e.header = .answer r → c.judgeAtTick e = c.answerSlot e.slot e.gen r e.header.screen) ∧
    (c.judge e.header = .leave → c.judgeAtTick e = c) ∧
    (∀ k, c.judge e.header = .candidate k →
      (let x := c.scr k.sc
       let d := c.judgeAtTick e
       let permitKey := fun (p : Permit) => ∃ id place, ((x.seq.list[e.header.entry]?).bind (·.permit)) = some id ∧
         c.permits.byId id = some (place, p)
       let wanted := fun (st : TextKeyState) (code : Nat) =>
         (d.scr k.sc).textKeys = x.textKeys ++ [{ track := k.track.id, reel := k.reel, state := st }] ∧
           Publication.notice (.screen k.sc) .keyWanted
             (noticeDetail [(1, e.header.entry), (1, k.reel), (4, k.track.id.toNat), (1, code)]) ∈ d.outbox
       let held := (x.textKeys.filter (fun y => y.state == .held)).length
       ((∀ slot, k.kind ≠ .text slot) ∨ k.track.isSealed = false → d = c) ∧
       (∀ slot, k.kind = .text slot → k.track.isSealed = true → (∀ y ∈ x.textKeys, y.track ≠ k.track.id) →
         (∀ p, permitKey p → (∃ y ∈ p.keys, y.track = k.track.id) → d = c) ∧
         ((∀ p, permitKey p → ∀ y ∈ p.keys, y.track ≠ k.track.id) →
           (held < 4 → wanted .held 1 ∧ d.directory = c.directory ∧ d.slots = c.slots ∧
             (d.scr k.sc).currentFeeds = x.currentFeeds) ∧
           (4 ≤ held → wanted .declined 2 ∧ d.directory = c.directory.filter (fun y => y.slot != e.slot) ∧
             (e.slot < c.slots.length → (d.slots[e.slot]?).map (·.answered) = some (some e.gen)) ∧
             Publication.slotAnswer e.slot e.gen SlotResult.released.code ∈ d.outbox ∧
             (∀ ti fs, x.seq.title = some ti → x.currentFeeds = some fs →
               ∃ fs', (d.scr k.sc).currentFeeds = some fs' ∧
                 ∀ f, fs'.get f =
                   if (fs.get f).complete = false ∧
                       ((ti.reels[(fs.get f).reel]?).bind (·.trackOf f)).map (·.id) = some k.track.id then
                     feedFrom ti.reels f (declinedTracks (d.scr k.sc).textKeys) ((fs.get f).reel + 1)
                   else fs.get f))))))) ∧
  (∀ (c : Card) (m : Mem) (h : Header) (slot : Nat) (x : SlotRecord), c.slots[slot]? = some x →
    x.seedPending = false → c.bus = [] →
    (let d := c.refreshSlot m h slot
     let raw := fun off w => m.field (h.slotAddr slot + off) w
     let gen := BitVec.ofNat 32 (raw 0 4)
     let offered := gen ≠ 0 ∧ x.answered ≠ some gen
     let met := fun (e : DirEntry) => e.slot = slot ∧ e.gen = gen ∧ e.standing = .offered ∧ e.changed = false ∧
       e.header = ⟨⟨raw 16 1, ringOf (raw 17 1), raw 24 8⟩, BitVec.ofNat 32 (raw 32 4), BitVec.ofNat 32 (raw 36 4),
         raw 40 4, raw 44 4, BitVec.ofNat 32 (raw 48 4), raw 52 1, raw 53 1, raw 54 1, raw 55 1 % 2 == 1,
         raw 55 1 / 2 % 2 == 1⟩
     let others := c.directory.filter (fun e => e.slot != slot)
     let gets := fun (l : List DirEntry) =>
       if offered then ∃ e, met e ∧ d.directory = insertEntry e l else d.directory = l
     (c.dirEntry slot = none → gets c.directory ∧ d.screens = c.screens ∧ d.slots = c.slots) ∧
     (∀ e, c.dirEntry slot = some e →
       (offered → e.gen = gen → d = c) ∧
       (¬ (offered ∧ e.gen = gen) →
         (e.standing = .offered → gets others ∧ d.screens = c.screens ∧ d.slots = c.slots) ∧
         (e.standing = .inFetch → d.screens = c.screens ∧ d.slots = c.slots ∧
           d.directory = c.directory.map (fun y => if y.slot = slot then { y with changed := true } else y)) ∧
         (e.standing = .inUse → d.directory = others ∧
           (∀ sc, queueDepth (d.scr sc).pictureQueue = queueDepth (c.scr sc).pictureQueue ∧
             queueDepth (d.scr sc).soundQueue = queueDepth (c.scr sc).soundQueue ∧
             (∀ g ∈ queueRefs (d.scr sc).pictureQueue, g.slot = slot → g.gen = e.gen →
               (c.scr sc).port.staged.map (·.ref) = some g) ∧
             (∀ g ∈ queueRefs (d.scr sc).soundQueue, g.slot = slot → g.gen = e.gen →
               (c.scr sc).sound.staged.map (·.ref) = some g))))))) ∧
  (∀ (c : Card) (e : ChunkHeader),
    (let sized := 1 ≤ e.units ∧ e.units ≤ 64 ∧ 64 ≤ e.length ∧ e.length ≤ 4194304
     (Idx4.ofNat? e.screen = none ∨ ¬ sized → c.judge e = .answer .badHeader) ∧
     (∀ sc, Idx4.ofNat? e.screen = some sc → sized →
       (let x := c.scr sc
        let q := x.seq
        let playing := c.enabled sc = true ∧ q.state ≠ .dark
        let ours := q.current = some e.entry ∨ q.armed = some e.entry
        (¬ playing → c.judge e = .leave) ∧
        (playing → q.loadNumber ≠ some e.load → c.judge e = .answer .stale) ∧
        (playing → q.loadNumber = some e.load →
          (q.titleOf e.entry = none → c.judge e = .answer .badHeader) ∧
          (∀ ti, q.titleOf e.entry = some ti →
            ((∃ k, q.state = .finished k) → c.judge e = .answer .stale) ∧
            ((∀ k, q.state ≠ .finished k) →
              (¬ ours → c.judge e =
                if (q.list[e.entry]?).map (·.status) = some .notArmed then .leave else .answer .stale) ∧
              (ours → ti.findTrack e.track = none → c.judge e = .answer .badHeader) ∧
              (∀ reel tr fs, ours → ti.findTrack e.track = some (reel, tr) →
                (let current := q.current == some e.entry
                 let kind := FeedKind.ofTrack tr.kind
                 let feed := fs.get kind
                 let behind := feed.complete = true ∨ reel < feed.reel ∨ reel = feed.reel ∧ e.sequence < feed.sequence
                 let beyond := feed.reel < reel ∨ reel = feed.reel ∧ feed.sequence < e.sequence
                 (e.isSealed ≠ tr.isSealed → c.judge e = .answer .badHeader) ∧
                 (e.isSealed = tr.isSealed →
                   (kind.isText = true → current = false → c.judge e = .leave) ∧
                   (kind.isText = false ∨ current = true →
                     (kind.isText = true → tr.id ∈ declinedTracks x.textKeys → c.judge e = .answer .released) ∧
                     (kind.isText = false ∨ tr.id ∉ declinedTracks x.textKeys → c.feedsOf sc e.entry = some fs →
                       (behind → c.judge e = .answer .stale) ∧ (¬ behind → beyond → c.judge e = .leave) ∧
                       (¬ behind → ¬ beyond → c.judge e =
                         if c.wantsData sc current kind feed e.units = true ∧
                             ∀ k ∈ x.textKeys, k.track = tr.id → k.state ≠ .held then
                           .candidate ⟨sc, kind, current, reel, tr⟩
                         else .leave)))))))))))))

/-- FETCH_START with no fetch in flight (R58, R59, R69): the choice is the first of the choosable entries by fewest
frames in its screen's picture queue, lower screen, fewest queued frames of its feed, picture before sound before
automation before text by slot, current before armed, lowest slot; an entry that can be chosen leaves a choice, and one
can be chosen that is offered, a candidate with its key, on a slot without a tally; where its area check passes the
fetch begins and the entry is in fetch; where it fails the slot is answered AREA_FAULT with its generation, its entry
goes, and AREA_FAULT is raised on the screen's sheet. That what can be chosen is judged afresh here is the model's (log
47). -/
def Obligations.FetchStartsOnFirstChoice : Prop :=
  (∀ (c : Card) (e : DirEntry) (k : Candidate), c.choosable e = some k ↔
    e.standing = .offered ∧ (∀ x, c.slots[e.slot]? = some x → x.tally = none) ∧ c.judge e.header = .candidate k ∧
      c.hasKey e.header k = true ∧ c.awaitsTick k = false) ∧
  (∀ (c : Card) (d : DirEntry) (j : Candidate), d ∈ c.directory → c.choosable d = some j →
    ∃ e k, c.chooseFetch = some (e, k)) ∧
  ∀ (h : Header) (s : State) (e : DirEntry) (k : Candidate), s.calm → s.card.active = true →
    s.card.header = some h → s.card.fetch = none → s.card.chooseFetch = some (e, k) →
    (e ∈ s.card.directory ∧ s.card.choosable e = some k ∧
      (let depth := fun (x : Candidate) => queueDepth (s.card.scr x.sc).pictureQueue
       let rank := fun (x : Candidate) =>
         match x.kind with | .picture => 0 | .sound => 1 | .automation => 2 | .text slot => 3 + slot.toNat
       let queued := fun (d : DirEntry) (x : Candidate) =>
         match x.kind with
         | .picture => (((s.card.scr x.sc).pictureQueue.filter (fun (it : QueueItem) => it.entry == d.header.entry)).map
             QueueItem.frames).sum
         | .sound => (((s.card.scr x.sc).soundQueue.filter (fun (it : QueueItem) => it.entry == d.header.entry)).map
             QueueItem.frames).sum
         | _ =>
           match (s.card.scr x.sc).seq.title, (s.card.scr x.sc).seq.position with
           | some (ti : Title), some p =>
             ((ti.reels.map Reel.duration).take x.reel).sum -
               (((ti.reels.map Reel.duration).take p.reel).sum + p.frame)
           | _, _ => 0
       ∀ d ∈ s.card.directory, ∀ j, s.card.choosable d = some j →
        depth k < depth j ∨ depth k = depth j ∧ (k.sc.toNat < j.sc.toNat ∨ k.sc = j.sc ∧
          (queued e k < queued d j ∨ queued e k = queued d j ∧
            (rank k < rank j ∨ rank k = rank j ∧
              (k.isCurrent = true ∧ j.isCurrent = false ∨ k.isCurrent = j.isCurrent ∧ e.slot ≤ d.slot)))))) ∧
    ∃ t, exec .fetchStart s = .next t ∧
      (let l := e.header.locator
       let ring := Ring.max .r1 l.ring
       (h.grants l.area l.offset e.header.length ring false = true →
         ({ s.card with
           fetch := some { slot := e.slot, gen := e.gen }
           directory := s.card.directory.map (fun d =>
             if d.slot = e.slot then { d with standing := .inFetch } else d) } : Card).sameButFaders t.card ∧
         t.mem = s.mem ∧ t.scan = s.scan) ∧
       (h.grants l.area l.offset e.header.length ring false = false →
         t.card.fetch = none ∧ t.card.directory = s.card.directory.filter (fun d => d.slot != e.slot) ∧
         (e.slot < s.card.slots.length → (t.card.slots[e.slot]?).map (·.answered) = some (some e.gen)) ∧
         t.raised (.screen k.sc) .areaFault = s.raised (.screen k.sc) .areaFault + 1 ∧
         t.raised .booth .slotAnswered = s.raised .booth .slotAnswered + 1 ∧
         (spansApart (h.slotSpan e.slot) (h.noticeSpan .booth .slotAnswered) →
           spansApart (h.slotSpan e.slot) (h.noticeSpan (.screen k.sc) .areaFault) →
           t.slotAnswered h e.slot e.gen .areaFault) ∧
         s.mem.sameOutside t.mem [h.slotSpan e.slot, h.noticeSpan .booth .slotAnswered,
           h.noticeSpan (.screen k.sc) .areaFault])) ∧
      (∀ sc, (t.card.scr sc).seq = (s.card.scr sc).seq) ∧ s.sameOutside t

/-- FETCH_COMPLETE (R56, R61 to R65, R69; log 9). Data that fails its check is answered CHECK_FAILED. A unit of a
picture or sound chunk, at its feed's expected frame or after a gap, of a chunk that passes R61 and R62, joins its queue
behind a MISSING placeholder for the gap, and the rest of the reel after it where the chunk is LAST; the slot is in use
with one reference outstanding; the feed moves to the next sequence and frame, or to the next reel at the reel's end,
which a LAST chunk always reaches (the model's, log 77); an offered duplicate of the chunk is answered DUPLICATE. A
chunk with no frame to come is answered SURPLUS, and its feed moves to the next sequence. -/
def Obligations.FetchCompleteTakesUnit : Prop :=
  ∀ (host : HostWrites) (h : Header) (s : State) (f : Fetch) (e : DirEntry), s.calm → s.card.active = true →
    s.card.header = some h → s.card.fetch = some f → s.card.dirEntry f.slot = some e →
    (let m := s.mem.hostStore host
     let data := m.readBytes (h.locate e.header.locator) e.header.length
     let answers := fun (t : State) (d : DirEntry) (result : SlotResult) =>
       (d.slot < s.card.slots.length → (t.card.slots[d.slot]?).map (·.answered) = some (some d.gen)) ∧
         (spansApart (h.slotSpan d.slot) (h.noticeSpan .booth .slotAnswered) → t.slotAnswered h d.slot d.gen result) ∧
         t.raised .booth .slotAnswered = s.raised .booth .slotAnswered + 1 ∧
         m.sameOutside t.mem [h.slotSpan d.slot, h.noticeSpan .booth .slotAnswered]
     (checkValue data ≠ e.header.check →
       ∃ t, exec (.fetchComplete host) s = .next t ∧ t.card.fetch = none ∧
         t.card.directory = s.card.directory.filter (fun d => d.slot != e.slot) ∧ answers t e .checkFailed ∧
         (∀ sc, (s.card.scr sc).sameButFader (t.card.scr sc)) ∧ s.sameOutside t) ∧
     (∀ sc ti fs reel track reader us, checkValue data = e.header.check → e.changed = false →
       BitVec.ofNat 32 (m.field (h.slotAddr e.slot) 4) = e.gen → e.slot < s.card.slots.length →
       Idx4.ofNat? e.header.screen = some sc → unitDirectory data e.header.units = some us →
       (let x := s.card.scr sc
        let kind := readerKind reader
        let feed := fs.get kind
        let entry := e.header.entry
        let duration := (ti.reels.map (·.duration)).getD reel 0
        let feedAt := fun (frame : Nat) =>
          if duration ≤ frame then feedFrom ti.reels kind (declinedTracks x.textKeys) (reel + 1)
          else { feed with frame := frame, sequence := feed.sequence + 1 }
        x.seq.state ≠ .dark → (∀ k, x.seq.state ≠ .finished k) → x.seq.loadNumber = some e.header.load →
        x.seq.current = some entry → x.seq.title = some ti → x.currentFeeds = some fs →
        ti.findTrack e.header.track = some (reel, track) → FeedKind.ofTrack track.kind = kind →
        feed.complete = false → feed.reel = reel → feed.sequence = e.header.sequence → feed.frame < duration →
        ∃ t, exec (.fetchComplete host) s = .next t ∧ t.card.fetch = none ∧ s.sameOutside t ∧
          (t.card.scr sc).seq = x.seq ∧
          (∀ other, other ≠ reader → (t.card.scr sc).queueOf other = x.queueOf other) ∧
          (∀ u, us = [u] → feed.frame ≤ u.frame → u.frame < duration →
            (let items :=
               (if feed.frame < u.frame then [QueueItem.missing entry reel feed.frame (u.frame - feed.frame)]
                else []) ++
               [QueueItem.ref
                 { slot := e.slot, gen := e.gen, offset := u.offset, length := u.length, check := u.check
                   frame := u.frame, reel := reel, entry := entry }] ++
               (if e.header.isLast = true ∧ u.frame + 1 < duration then
                 [QueueItem.missing entry reel (u.frame + 1) (duration - (u.frame + 1))] else [])
             (t.card.scr sc).queueOf reader = appendItems (x.queueOf reader) entry true items ∧
             (x.queueOf reader = [] → (t.card.scr sc).queueOf reader = items) ∧
             (t.card.scr sc).currentFeeds =
               some (fs.set kind (feedAt (if e.header.isLast then duration else u.frame + 1))) ∧
             (t.card.slots[e.slot]?).map (·.tally) = some (some { gen := e.gen, outstanding := 1 }) ∧
             (∀ d ∈ t.card.directory, d.slot = e.slot → d.standing = .inUse) ∧
             (s.card.directory = [e] → t.mem = m) ∧
             (∀ d, s.card.directory = [e, d] ∨ s.card.directory = [d, e] → d.slot ≠ e.slot → d.standing = .offered →
               d.header.duplicates e.header = true →
               answers t d .duplicate ∧ t.card.directory.map (·.slot) = [e.slot]))) ∧
          ((∀ u ∈ us, u.frame < feed.frame ∨ duration ≤ u.frame) → e.header.isLast = false →
            s.card.directory = [e] → x.queueOf reader = [] →
            (t.card.scr sc).queueOf reader = [] ∧ t.card.directory = [] ∧ answers t e .surplus ∧
            (t.card.scr sc).currentFeeds = some (fs.set kind (feedAt feed.frame))))))

/-- FETCH_COMPLETE for a plain unit of a TEXT or AUTOMATION chunk (R64, R113, R115 to R117, R119, R69; that the chunk's
bytes are those memory holds when it is taken is the model's, log 9): a unit with one
item that is in time takes the record at the head of the free list, filled with the item, the entry, the reel and the
next arrival number, and queues it; of a TEXT item whose fades do not fit its span the fade-in comes first. A unit that
fails its check is a TEXT_UNIT fault of cause CHECK. The slot is answered SPENT, and the feed moves to the next sequence
and frame, or to the next reel. -/
def Obligations.FetchTakesTextUnits : Prop :=
  ∀ (host : HostWrites) (h : Header) (s : State) (f : Fetch) (e : DirEntry) (sc : Idx4) (ti : Title) (fs : Feeds)
    (reel : Nat) (track : Track) (u : UnitEntry), s.calm → s.card.active = true → s.card.header = some h →
    s.card.fetch = some f → s.card.dirEntry f.slot = some e → s.card.directory = [e] →
    (let m := s.mem.hostStore host
     let data := m.readBytes (h.locate e.header.locator) e.header.length
     let raw := slice data u.offset u.length
     let x := s.card.scr sc
     let q := x.seq
     let kind := FeedKind.ofTrack track.kind
     let feed := fs.get kind
     let entry := e.header.entry
     let duration := (ti.reels.map (·.duration)).getD reel 0
     let inTime := fun (frame : Nat) => ∀ p, q.position = some p → p.reel = reel →
       (if q.inProgress then p.frame + 1 else p.frame) ≤ frame
     checkValue data = e.header.check → e.changed = false →
     BitVec.ofNat 32 (m.field (h.slotAddr e.slot) 4) = e.gen → e.slot < s.card.slots.length →
     Idx4.ofNat? e.header.screen = some sc → unitDirectory data e.header.units = some [u] →
     q.state ≠ .dark → (∀ k, q.state ≠ .finished k) → q.loadNumber = some e.header.load →
     q.current = some entry → q.title = some ti → x.currentFeeds = some fs →
     ti.findTrack e.header.track = some (reel, track) → kind.isText = true → e.header.isSealed = false →
     feed.complete = false → feed.reel = reel → feed.sequence = e.header.sequence → feed.frame ≤ u.frame →
     u.frame < duration →
     ∃ t, exec (.fetchComplete host) s = .next t ∧ t.card.fetch = none ∧ t.card.directory = [] ∧
       (spansApart (h.slotSpan e.slot) (h.noticeSpan .booth .slotAnswered) → t.slotAnswered h e.slot e.gen .spent) ∧
       (t.card.scr sc).currentFeeds = some (fs.set kind
         (if e.header.isLast = true ∨ duration ≤ u.frame + 1 then
           feedFrom ti.reels kind (declinedTracks x.textKeys) (reel + 1)
         else { feed with frame := u.frame + 1, sequence := feed.sequence + 1 })) ∧
       s.sameOutside t ∧
       (let y := t.card.scr sc
        let taken := fun (body : CueBody) => ∀ n rest, s.card.pool.mayTake sc = true → s.card.pool.free = n :: rest →
          t.card.pool.free = rest ∧ FMap.find t.card.pool.held n =
            some { owner := sc, entry := entry, reel := reel, arrival := x.text.nextArrival, body := body } ∧
          y.text = { x.text with queue := y.text.queue, nextArrival := x.text.nextArrival + 1 } ∧
          (x.text.queue = [] → y.text.queue = [n]) ∧ y.seq = q ∧ y.tallies = x.tallies
        (∀ i, track.kind = .automation → checkValue raw = u.check → automationUnit raw = some [i] →
          i.frame < duration → inTime i.frame → taken (.automation i)) ∧
        (∀ slot lang i, track.kind = .text slot lang → checkValue raw = u.check → textUnit raw = some [i] →
          i.inFrame < i.outFrame → i.inFrame < duration → inTime i.inFrame →
          x.text.selection.overlay = some slot ∨ x.text.selection.captions.getLsbD slot.toNat = true →
          (let span := i.outFrame - i.inFrame
           let fit := i.fadeIn + i.fadeOut ≤ span
           taken (.text
             { id := i.id, inFrame := i.inFrame, outFrame := i.outFrame
               fadeIn := if fit then i.fadeIn else min i.fadeIn span
               fadeOut := if fit then i.fadeOut else span - min i.fadeIn span
               region := i.region, slot := slot, style := i.style, text := i.text }))) ∧
        (checkValue raw ≠ u.check → s.card.auto.latch = false → y.text = x.text ∧ t.card.pool = s.card.pool ∧
          (q.settings.textUnit = .conceal → y.seq = q ∧ y.tallies = x.tallies ∧
            t.raised (.screen sc) .fault = s.raised (.screen sc) .fault + 1) ∧
          (q.settings.textUnit = .tally → y.seq = q ∧ t.raised (.screen sc) .fault = s.raised (.screen sc) .fault ∧
            y.tallies = x.tallies.modify 9 (fun n => min 4294967295 (n + 1))))))

/-- The cue pool and the sets (R113, R114, R118). Every command keeps the law of R114: held and free records number 512,
and the free ones cover the reserves of the four screens; with it stands that no record is free twice or free and held,
and that each queued record is held by its screen, once; the reset state has it. A record taken by a screen that may
take one is the head of the free list, and the other screens' reserves are left; a record given back becomes the head,
and the reserves are left. A screen with fewer than 48 records may always take one while the reserves stand, and there
is then one to take. Every command keeps the sets of every screen at four records. -/
def Obligations.CuePoolKeepsReserves : Prop :=
  (State.reset.card.poolLaw ∧ State.reset.card.setsFit) ∧
  (∀ (p : CuePool) (r : CueRecord), (∀ n ∈ p.free, FMap.find p.held n = none) → p.reservesKept →
    (p.heldBy r.owner < 48 → p.mayTake r.owner = true ∧ p.free ≠ []) ∧
    (p.mayTake r.owner = true → ∀ n p', p.take r = some (n, p') →
      p.free = n :: p'.free ∧ FMap.find p'.held n = some r ∧ p'.heldBy r.owner = p.heldBy r.owner + 1 ∧
      (∀ sd, sd ≠ r.owner → p'.heldBy sd = p.heldBy sd) ∧ p'.reservesKept)) ∧
  (∀ (p : CuePool) (n : Nat) (r : CueRecord), FMap.Sorted p.held → FMap.find p.held n = some r → p.reservesKept →
    (p.giveBack n).free = n :: p.free ∧ FMap.find (p.giveBack n).held n = none ∧
      (p.giveBack n).heldBy r.owner + 1 = p.heldBy r.owner ∧
      (∀ sd, sd ≠ r.owner → (p.giveBack n).heldBy sd = p.heldBy sd) ∧ (p.giveBack n).reservesKept) ∧
  (∀ (c : Instr) (s t : State), s.card.setsFit → exec c s = .next t → t.card.setsFit) ∧
  (∀ (c : Instr) (s t : State), s.card.poolLaw → exec c s = .next t → t.card.poolLaw)

/-- The reads of units at play (R68, R95, R97, R132; log 9): a start stages the head reference where its slot's offer
still stands, and else withdraws the slot and stages nothing; at the end of a read the unit of an unsealed track is
ready with its bytes, or failed by LENGTH (sound alone) or CHECK. -/
def Obligations.UnitReadsStageUnits : Prop :=
  ∀ (sc : Idx4) (host : HostWrites) (h : Header) (s : State), s.calm → s.card.active = true →
    s.card.header = some h →
    (let m := s.mem.hostStore host
     let x := s.card.scr sc
     (∀ reader g e, s.card.stageable sc reader = some g → s.card.dirEntry g.slot = some e →
       ∃ t, exec (.unitReadStart sc reader host) s = .next t ∧
         (BitVec.ofNat 32 (m.field (h.slotAddr g.slot) 4) = g.gen →
           (t.card.scr sc).stagedOf reader = some ⟨g, e.header.locator, .reading 0 0⟩ ∧
           (t.card.scr sc).queueOf reader = x.queueOf reader ∧ t.card.directory = s.card.directory ∧
           s.card.onlyScreen sc t.card) ∧
         (BitVec.ofNat 32 (m.field (h.slotAddr g.slot) 4) ≠ g.gen →
           (t.card.scr sc).stagedOf reader = none ∧
           t.card.directory = s.card.directory.filter (fun d => d.slot != g.slot)) ∧
         (∀ sd, (t.card.scr sd).seq = (s.card.scr sd).seq) ∧ t.mem = m ∧ t.scan = s.scan ∧ s.sameOutside t) ∧
     (∀ g l b n ti tr, x.seq.titleOf g.entry = some ti → (ti.reels[g.reel]?).bind (·.trackOf .sound) = some tr →
       x.sound.staged = some ⟨g, l, .reading b n⟩ → tr.isSealed = false →
       (let bytes := m.readBytes (h.addr l.area (l.offset + g.offset)) g.length
        ∀ rate channels, tr.kind = .sound rate channels →
        ∃ t, exec (.soundUnitReadEnd sc host) s = .next t ∧
          (t.card.scr sc).sound.staged = some ⟨g, l,
            if g.length ≠ channels * (rate / ti.rate) * 3 then .failed .length
            else if checkValue bytes = g.check then .ready bytes else .failed .check⟩ ∧
          (t.card.scr sc).seq = x.seq ∧ (t.card.scr sc).soundQueue = x.soundQueue ∧ s.card.onlyScreen sc t.card ∧
          t.mem = m ∧ t.scan = s.scan ∧ s.sameOutside t)) ∧
     (∀ g l b n ti tr, x.seq.titleOf g.entry = some ti → (ti.reels[g.reel]?).bind (·.trackOf .picture) = some tr →
       x.port.staged = some ⟨g, l, .reading b n⟩ → tr.isSealed = false →
       (let bytes := m.readBytes (h.addr l.area (l.offset + g.offset)) g.length
        ∃ t, exec (.pictureUnitReadEnd sc host) s = .next t ∧
          (t.card.scr sc).port = { x.port with staged := some ⟨g, l,
            if checkValue bytes = g.check then .ready bytes else .failed .check⟩ } ∧
          (t.card.scr sc).seq = x.seq ∧ (t.card.scr sc).pictureQueue = x.pictureQueue ∧ s.card.onlyScreen sc t.card ∧
          t.mem = m ∧ t.scan = s.scan ∧ s.sameOutside t)))

/-- BUS_ACCESS_FAILURE (R183, R171, R59, R96, R69; log 8): a try of an access that its own step makes is counted against
that access alone; the fourth failure of the header read is start fault MEMORY, code 6, its detail 0 (log 62); the
fourth of a burst ends the fetch, its slot answered FETCH_FAULT, or the unit read with READ; fewer are tried again. -/
def Obligations.BusFailuresCountTries : Prop :=
  (∀ (a : BusAccess) (s : State), s.powered = true → s.card.active = true →
    (match a with
     | .boothHeader | .fetchBurst _ | .pictureBurst _ _ | .soundBurst _ _ | .recordWrite | .noticeWrite _ _ => False
     | _ => True) →
    ∃ t, exec (.busAccessFailure a) s = .next t ∧ t = { s with card := { s.card with bus := t.card.bus } } ∧
      t.card.busCount a = s.card.busCount a + 1 ∧ ∀ b, b ≠ a → t.card.busCount b = s.card.busCount b) ∧
  (∀ s : State, s.powered = true → s.card.engine = .starting →
    ∃ t, exec (.busAccessFailure .boothHeader) s = .next t ∧ t.mem = s.mem ∧ t.scan = s.scan ∧
      t.card.header = s.card.header ∧
      (s.card.busCount .boothHeader < 3 →
        t.card.engine = .starting ∧ t.card.busCount .boothHeader = s.card.busCount .boothHeader + 1 ∧
        t.window = s.window) ∧
      (3 ≤ s.card.busCount .boothHeader →
        t.card.engine = .faulted ∧ t.card.bus = [] ∧ t.window = { s.window with faultCode := 6, faultDetail := 0 })) ∧
  (∀ (burst : Nat) (f : Fetch) (e : DirEntry) (h : Header) (s : State), s.calm → s.card.active = true →
    s.card.header = some h → s.card.fetch = some f → s.card.dirEntry f.slot = some e → burst = f.burst →
    4096 * burst < e.header.length →
    ∃ t, exec (.busAccessFailure (.fetchBurst burst)) s = .next t ∧
      (f.tries < 3 → t.card.fetch = some { f with tries := f.tries + 1 } ∧ t.card.directory = s.card.directory ∧
        t.mem = s.mem) ∧
      (3 ≤ f.tries → t.card.fetch = none ∧
        t.card.directory = s.card.directory.filter (fun d => d.slot != e.slot) ∧
        t.raised .booth .slotAnswered = s.raised .booth .slotAnswered + 1 ∧
        (spansApart (h.slotSpan e.slot) (h.noticeSpan .booth .slotAnswered) →
          t.slotAnswered h e.slot e.gen .fetchFault) ∧
        s.mem.sameOutside t.mem [h.slotSpan e.slot, h.noticeSpan .booth .slotAnswered]) ∧
      (∀ sc, (t.card.scr sc).seq = (s.card.scr sc).seq) ∧ s.sameOutside t) ∧
  (∀ (sc : Idx4) (burst tries : Nat) (g : Ref) (l : Locator) (s : State), s.calm → s.card.active = true →
    4096 * burst < g.length →
    (let next : StagedState := if tries < 3 then .reading burst (tries + 1) else .failed .read
     ((s.card.scr sc).port.staged = some ⟨g, l, .reading burst tries⟩ →
       ∃ t, exec (.busAccessFailure (.pictureBurst sc burst)) s = .next t ∧
         (t.card.scr sc).port = { (s.card.scr sc).port with staged := some ⟨g, l, next⟩ } ∧
         s.card.onlyScreen sc t.card ∧ t.mem = s.mem ∧ s.sameOutside t) ∧
     ((s.card.scr sc).sound.staged = some ⟨g, l, .reading burst tries⟩ →
       ∃ t, exec (.busAccessFailure (.soundBurst sc burst)) s = .next t ∧
         (t.card.scr sc).sound.staged = some ⟨g, l, next⟩ ∧
         s.card.onlyScreen sc t.card ∧ t.mem = s.mem ∧ s.sameOutside t)))

/-! ## The links -/

/-- The picture link's segments and back-off (R134), on a screen whose blocks act: a segment sent moves the transfer to
the next; a request sets back-off, cuts the segment being sent short and counts as an answer of the transfer; a release
clears it, counts as an answer, and the segment is sent again from its first byte; with no transfer in flight back-off
alone is set or cleared, whatever the link's state. Nothing else of the card changes. That a segment sent in back-off,
or with none left, changes nothing is the model's (log 1). CAPTION_SEND_COMPLETE (R128): sending of the pending frame
begins at once, if there is one, and it ceases to be pending; otherwise the link becomes IDLE; in every engine state,
and nothing else changes. -/
def Obligations.LinkSends : Prop :=
  (∀ (sc : Idx4) (h : Header) (s : State), s.acts sc h →
    (let p := (s.card.scr sc).port
     let withPort := fun (p' : PicturePort) =>
       { s with card := { s.card with screens := s.card.screens.set sc { s.card.scr sc with port := p' } } }
     (∀ tr, p.transfer = some tr → p.backOff = false → tr.sent < tr.segments.length →
       exec (.transferSegmentSent sc) s =
         .next (withPort { p with transfer := some { tr with sent := tr.sent + 1, cut := false } })) ∧
     (∀ tr, p.transfer = some tr →
       exec (.backOffRequest sc) s = .next (withPort { p with
         backOff := true, answerWait := 0
         transfer := some { tr with
           answered := true, cut := tr.cut || (!p.backOff && decide (tr.sent < tr.segments.length)) } }) ∧
       exec (.backOffRelease sc) s = .next (withPort { p with
         backOff := false, answerWait := 0, transfer := some { tr with answered := true, cut := false } })) ∧
     (p.transfer = none →
       exec (.backOffRequest sc) s = .next (withPort { p with backOff := true }) ∧
       exec (.backOffRelease sc) s = .next (withPort { p with backOff := false }) ∧
       exec (.transferSegmentSent sc) s = .next s) ∧
     (∀ tr, p.transfer = some tr → p.backOff = true ∨ tr.segments.length ≤ tr.sent →
       exec (.transferSegmentSent sc) s = .next s))) ∧
  (∀ (sc : Idx4) (f : CaptionFrame) (s : State), s.powered = true → (s.card.scr sc).captions.sending = some f →
    ∃ t, exec (.captionSendComplete sc) s = .next t ∧
      t = { s with card := { s.card with
        screens := s.card.screens.set sc { s.card.scr sc with captions := (t.card.scr sc).captions } } } ∧
      (t.card.scr sc).captions.sending = (s.card.scr sc).captions.pending ∧
      (t.card.scr sc).captions.pending = none ∧ (t.card.scr sc).captions.count = (s.card.scr sc).captions.count)

/-- TAKEN and REFUSED (R135): an answer with the frame count of the transfer in flight ends it and clears the
answer-wait count; a PICTURE frame is delivered or lost; one with another count changes no port. That an answer settles
the frame also before its last segment has been sent is the model's (log 25). -/
def Obligations.ProjectorAnswersSettleFrame : Prop :=
  ∀ (sc : Idx4) (count : U16) (h : Header) (s : State) (tr : Transfer), s.acts sc h →
    (let p := (s.card.scr sc).port
     p.transfer = some tr →
     (∃ t, exec (.projectorTaken sc count) s = .next t ∧
       (t.card.scr sc).port =
         (if tr.count ≠ count then p
          else if tr.kind = .picture ∧ tr.frame ≠ none then
            { p with transfer := none, answerWait := 0, delivered := p.delivered + 1, lastDelivered := true }
          else { p with transfer := none, answerWait := 0 }) ∧
       (t.card.scr sc).seq = (s.card.scr sc).seq ∧ t.card.auto = s.card.auto ∧ s.sameOutside t) ∧
     (∃ t, exec (.projectorRefused sc count) s = .next t ∧
       (t.card.scr sc).port =
         (if tr.count ≠ count then p
          else { p with
            transfer := none, answerWait := 0
            lost := if tr.kind = .picture then p.lost + 1 else p.lost }) ∧
       (t.card.scr sc).seq = (s.card.scr sc).seq ∧ s.card.onlyScreen sc t.card ∧ t.mem = s.mem ∧ s.sameOutside t))

/-- A delivered frame (R135, R150, R151): one of the screen's started current entry continues the current pass of its
reel, or begins the first or a new one; the last counted frame becomes it, the best count is the larger of itself and
the pass count, credited is the sum of the best counts, and the play is credited once that reaches the needed frames; a
frame of another entry is disregarded. The record holds the credited value, with a right check (R152). The frame that
first reaches needed makes the credit, and no other does: the record is marked credited at the booth time, the entry's
permit has pending one lower and counted one higher (R84), and CREDITED is raised. That a TAKEN delivers the frame also
before its last segment has been sent is the model's (log 25). -/
def Obligations.DeliveredFramesCount : Prop :=
  ∀ (sc : Idx4) (h : Header) (s : State) (tr : Transfer) (f : Presented), s.acts sc h →
    (s.card.scr sc).port.transfer = some tr → tr.kind = .picture → tr.frame = some f →
    ∃ t, exec (.projectorTaken sc tr.count) s = .next t ∧
      (let q := (s.card.scr sc).seq
       let credits := t.raised (.screen sc) .credited - s.raised (.screen sc) .credited
       ((q.started = false ∨ q.current ≠ some f.entry) →
         t.card.counter = s.card.counter ∧ t.card.permits = s.card.permits ∧ credits = 0) ∧
       (q.started = true → q.current = some f.entry → ∀ play old, s.card.counter.plays.get sc = some play →
         play.entry = f.entry → play.reels[f.reel]? = some old →
         ∃ play' new, t.card.counter.plays.get sc = some play' ∧ play'.reels[f.reel]? = some new ∧
           new.last = some f.frame ∧
           new.pass = (match old.last with | some l => if l < f.frame then old.pass + 1 else 1 | none => 1) ∧
           new.best = max old.best new.pass ∧ (∀ r, r ≠ f.reel → play'.reels[r]? = play.reels[r]?) ∧
           play'.credited = (play'.reels.map (·.best)).sum ∧
           play'.isCredited = (play.isCredited || decide (play.needed ≤ play'.credited)) ∧
           play'.needed = play.needed ∧ play'.total = play.total ∧
           (let due := decide (play.isCredited = false ∧ play.needed ≤ play'.credited)
            t.card.counter = { s.card.counter with
              holding := s.card.counter.holding.map (fun k =>
                if k.isFor sc f.entry then
                  (if due then
                    { k with credited := play'.credited, isCredited := true, creditTime := s.card.boothTime }
                  else { k with credited := play'.credited }).withCheck
                else k)
              plays := s.card.counter.plays.set sc (some play') } ∧
            credits = (if due then 1 else 0) ∧
            (due = false → t.card.permits = s.card.permits) ∧
            (due = true →
              s.card.permits.becomes t.card.permits (s.card.permitOfEntry sc f.entry) Permit.creditedOnce))))

/-- The events of the picture link (R130, R131): an answer to the training offer, success, failure and the loss of the
signal move it as the table says and raise LINK_CHANGE once. That in the other link states they change nothing of the
port is the model's (log 1), and so is the training count of 0 outside TRAINING (log 59). -/
def Obligations.LinkEventsMoveLink : Prop :=
  ∀ (sc : Idx4) (h : Header) (s : State), s.acts sc h →
    (let p := (s.card.scr sc).port
     let q := (s.card.scr sc).seq
     let moved := fun (t : State) (p' : PicturePort) =>
       (t.card.scr sc).port = p' ∧ (t.card.scr sc).seq.state = q.state ∧
         t.raised (.screen sc) .linkChange = s.raised (.screen sc) .linkChange + 1 ∧ s.card.onlyScreen sc t.card ∧
         s.mem.sameOutside t.mem [h.noticeSpan (.screen sc) .linkChange, h.noticeSpan (.screen sc) .fault] ∧
         s.sameOutside t
     let still := fun (t : State) => s.card.sameButFaders t.card ∧ t.mem = s.mem ∧ t.scan = s.scan ∧ s.sameOutside t
     let lostWith := if p.transfer.any (fun tr => tr.kind == .picture) then p.lost + 1 else p.lost
     (∃ t, exec (.linkFound sc) s = .next t ∧
       (p.link = .down → moved t { p with link := .training, training := 0 }) ∧ (p.link ≠ .down → still t)) ∧
     (∃ t, exec (.linkTrained sc) s = .next t ∧
       (p.link = .training →
         moved t { p with link := .up, training := 0, answerWait := 0, outage := false, output := .nothing }) ∧
       (p.link ≠ .training → still t)) ∧
     (∃ t, exec (.trainingFailed sc) s = .next t ∧
       (p.link = .training → moved t { p with
         link := .down, training := 0, output := .nothing, transfer := none, lost := lostWith }) ∧
       (p.link ≠ .training → still t)) ∧
     (∃ t, exec (.signalLost sc) s = .next t ∧
       (p.link ≠ .down → moved t { p with
         link := .down, training := 0, backOff := p.backOff && p.link != .up, output := .nothing, transfer := none
         lost := lostWith
         outage := p.outage || decide (p.link = .up ∧ q.state = .running) }) ∧
       (p.link = .down → still t)))

/-! ## Log pages and notices -/

/-- LOG_RECORD_WRITE_START and LOG_RECORD_WRITTEN (R158): the oldest CLOSED record's 128 bytes go, its record check
last, into the place numbered by the fill count, and no other byte is written; once written, the record leaves the
holding list and the fill count word of a seeded booth sheet holds the next number. A page full by it is answered FULL,
with LOG_PAGE_FULL, and is no longer the current page. Where a CLOSED record still waits, the search of R157 runs: of
the entries from the one after the last page used round to it, the first offered one that the area check grants is
taken, and writing resumes at its fill count, or starts afresh at 0 with its fill count and fill generation written; one
found full is answered FULL in its turn, and where nothing is left to take LOG_WAITING is raised, once for a wait
(R159). That a record's bytes all lie in booth memory from the start of its write on is the model's (log 66). -/
def Obligations.LogRecordsFillPages : Prop :=
  ∀ (h : Header) (s : State) (p : CurrentPage), s.calm → s.card.active = true → s.card.header = some h →
    s.card.counter.current = some p →
    (∀ r, s.card.counter.holding.find? (fun r => r.state == .closed) = some r → s.card.counter.writing = none →
      p.fill < 32 →
      ∃ t, exec .logRecordWriteStart s = .next t ∧
        (let a := h.locate p.locator + 128 * p.fill
         t.mem.readBytes a 128 = r.body ++ leBytes r.check.toNat 4 ∧
         s.mem.sameOutside t.mem [(a, 128)]) ∧
        ({ s.card with counter := { s.card.counter with writing := some (r.number, p.fill) } } : Card).sameButFaders
          t.card ∧ t.scan = s.scan ∧ s.sameOutside t) ∧
    (∀ number place, s.card.counter.writing = some (number, place) → place + 1 < 32 →
      (s.scan.get .booth).seeded = true →
      ∃ t, exec .logRecordWritten s = .next t ∧
        (let a := h.pagePartAddr p.page + 8
         t.mem.readBytes a 4 = leBytes (place + 1) 4 ∧ s.mem.sameOutside t.mem [(a, 4)]) ∧
        ({ s.card with counter := { s.card.counter with
          holding := s.card.counter.holding.filter (fun r => !(r.number == number && r.state == .closed))
          writing := none, current := some { p with
            fill := place + 1, first := if place = 0 then some number else p.first } } } : Card).sameButFaders t.card ∧
        t.scan = s.scan ∧ s.sameOutside t) ∧
    (∀ number place o, s.card.counter.writing = some (number, place) → place + 1 = 32 → p.page < 8 →
      s.card.counter.pages.length = 8 → s.card.counter.offers[p.page]? = some o → o.gen = p.gen →
      (s.scan.get .booth).seeded = true →
      (let k := s.card.counter
       let left := k.holding.filter (fun r => !(r.number == number && r.state == .closed))
       let waits := ∃ r ∈ left, r.state = .closed
       let offered := fun (j : Nat) (o : PageOffer) => j ≠ p.page ∧ k.offers[j]? = some o ∧ o.gen ≠ 0 ∧
         ∃ g, k.pages[j]? = some g ∧ g.seedPending = false ∧ g.answered ≠ some o.gen
       let isFull := fun (t : State) (page : Nat) (gen : U32) =>
         (t.card.counter.pages[page]?).map (·.answered) = some (some gen) ∧
           t.mem.readBytes (h.pagePartAddr page) 8 = leBytes PageResult.full.code 2 ++ [0, 0] ++ leBytes gen.toNat 4
       let fulls := fun (t : State) =>
         t.raised .booth .logPageFull - s.raised .booth .logPageFull
       let waitings := fun (t : State) =>
         t.raised .booth .logWaiting - s.raised .booth .logWaiting
       ∃ t, exec .logRecordWritten s = .next t ∧ s.sameOutside t ∧ t.card.counter.holding = left ∧
         t.card.counter.writing = none ∧ isFull t p.page p.gen ∧
         t.mem.readBytes (h.pagePartAddr p.page + 8) 4 = leBytes 32 4 ∧
         (¬ waits → t.card.counter.current = none ∧ fulls t = 1 ∧ waitings t = 0 ∧
           s.mem.sameOutside t.mem [(h.pagePartAddr p.page, 12), h.noticeSpan .booth .logPageFull]) ∧
         (waits → (∀ j o, ¬ offered j o) → t.card.counter.current = none ∧ fulls t = 1 ∧
           t.card.counter.waiting = true ∧ waitings t = if k.waiting then 0 else 1) ∧
         (∀ d i o, waits → d < 8 → i = (k.lastPage + 1 + d) % 8 → offered i o →
           (∀ d', d' < d → ∀ o', ¬ offered ((k.lastPage + 1 + d') % 8) o') →
           h.grants o.locator.area o.locator.offset 4096 (Ring.max .r1 o.locator.ring) true = true →
           (let fill := s.mem.field (h.pagePartAddr i + 8) 4
            let fillGen := BitVec.ofNat 32 (s.mem.field (h.pagePartAddr i + 12) 4)
            let taken := fun (n : Nat) => t.card.counter.current =
                some { page := i, gen := o.gen, fill := n, locator := o.locator, first := none } ∧
              fulls t = 1 ∧ waitings t = 0
            t.card.counter.lastPage = i ∧
            (fillGen = o.gen → fill ≤ 31 → taken fill ∧ t.card.counter.waiting = false) ∧
            (fillGen ≠ o.gen ∨ 32 < fill → taken 0 ∧ t.card.counter.waiting = false ∧
              t.mem.readBytes (h.pagePartAddr i + 8) 8 = leBytes 0 4 ++ leBytes o.gen.toNat 4) ∧
            (fillGen = o.gen → fill = 32 → (∀ j o', j ≠ i → ¬ offered j o') →
              isFull t i o.gen ∧ fulls t = 2 ∧ t.card.counter.current = none ∧
                t.card.counter.waiting = true ∧ waitings t = 1)))))

/-- NOTICE_WRITE_END (R181, R182): the raised count written last stands in the place's closing copy and the sheet's
cause is set; the place is then idle, or, where a raising came meanwhile, its write begins anew with the newer count. -/
def Obligations.NoticeWriteEndsWithCount : Prop :=
  ∀ (sh : Sheet) (k : NoticeKind) (h : Header) (s : State) (n : U32), s.calm → s.card.active = true →
    s.card.header = some h → k.onSheet sh = true → ((s.scan.get sh).place k).writing = some n →
    (let p := (s.scan.get sh).place k
     let a := h.noticeAddr sh k
     ∃ t, exec (.noticeWriteEnd sh k) s = .next t ∧ t.card = s.card ∧ s.sameOutside t ∧
       t.window.attention = s.window.attention ||| sh.causeBit ∧
       (p.newer = false →
         t.mem.readBytes (a + 124) 4 = leBytes n.toNat 4 ∧ s.mem.sameOutside t.mem [(a + 124, 4)] ∧
         (t.scan.get sh).place k = { p with writing := none }) ∧
       (p.newer = true →
         s.mem.sameOutside t.mem [(a, 4 + p.detail.length), (a + 124, 4)] ∧
         (p.detail.length ≤ 120 → t.mem.readBytes a 4 = leBytes p.count.toNat 4 ∧
           t.mem.readBytes (a + 124) 4 = leBytes n.toNat 4) ∧
         (t.scan.get sh).place k = { p with writing := some p.count, newer := false, retry := false }) ∧
       (∀ j, j.place ≠ k.place → (t.scan.get sh).place j = (s.scan.get sh).place j) ∧
       (∀ sd, sd ≠ sh → t.scan.get sd = s.scan.get sd))

/-! ## Entry frames -/

/-- R7: entry frame e lies in the reel r with S ≤ e < S + duration of r, at reel frame e − S, S being the sum of the
durations of the reels before it; a TITLE has the sum of its reels' durations, an INTERVAL of L seconds 24 × L frames,
and a MARK none. -/
def Obligations.EntryFramesLieInReels : Prop :=
  (∀ (durations : List Nat) (e r d : Nat), durations[r]? = some d → (durations.take r).sum ≤ e →
    e < (durations.take r).sum + d → locateFrame durations e = (r, e - (durations.take r).sum)) ∧
  (∀ (durations : List Nat) (e : Nat), e < durations.sum →
    ∃ r d, durations[r]? = some d ∧ (durations.take r).sum ≤ e ∧ e < (durations.take r).sum + d) ∧
  (∀ ti : Title, ti.frames = (ti.reels.map (·.duration)).sum) ∧
  (∀ (q : Sequencer) (i : Nat) (e : Entry), q.list[i]? = some e →
    (∀ k ti, e.kind = .title k → q.titles[k]? = some ti → q.durations i = ti.reels.map (·.duration)) ∧
    (∀ l, e.kind = .interval l → (q.durations i).sum = 24 * l) ∧
    (∀ hold, e.kind = .mark hold → (q.durations i).sum = 0))
end

