-- ==== Sys2Proof/Laws/State.lean ====
section
/-! SUPPORT. One lemma per field per update of the state's records, so that no proof unfolds a record update. -/
namespace Sys2Proof

/-! ## The four-fold record -/

@[simp] theorem Quad.get_const {α : Type} (a : α) (i : Idx4) : (Quad.const a).get i = a := by cases i <;> rfl

@[simp] theorem Quad.get_set_self {α : Type} (q : Quad α) (i : Idx4) (a : α) : (q.set i a).get i = a := by
  cases i <;> rfl

theorem Quad.get_set_ne {α : Type} (q : Quad α) {i j : Idx4} (a : α) (h : j ≠ i) : (q.set i a).get j = q.get j := by
  cases i <;> cases j <;> first | rfl | exact absurd rfl h

@[simp] theorem Quad.get_modify_self {α : Type} (q : Quad α) (i : Idx4) (f : α → α) :
    (q.modify i f).get i = f (q.get i) := by simp [Quad.modify]

theorem Quad.get_modify_ne {α : Type} (q : Quad α) {i j : Idx4} (f : α → α) (h : j ≠ i) :
    (q.modify i f).get j = q.get j := by simp [Quad.modify, Quad.get_set_ne _ _ h]

@[simp] theorem Quad.get_map {α β : Type} (q : Quad α) (f : α → β) (i : Idx4) : (q.map f).get i = f (q.get i) := by
  cases i <;> rfl

@[simp] theorem Quad.map_map {α β γ : Type} (q : Quad α) (f : α → β) (g : β → γ) :
    (q.map f).map g = q.map (fun x => g (f x)) :=
  rfl

theorem Quad.map_set {α β : Type} (q : Quad α) (f : α → β) (i : Idx4) (a : α) :
    (q.set i a).map f = (q.map f).set i (f a) := by cases i <;> rfl

theorem Quad.map_modify {α β : Type} (q : Quad α) (f : α → β) (g : α → α) (i : Idx4)
    (h : f (g (q.get i)) = f (q.get i)) :
    (q.modify i g).map f = q.map f := by
  cases i <;> simp_all [Quad.modify, Quad.set, Quad.map, Quad.get]

@[simp] theorem Quad.set_set {α : Type} (q : Quad α) (i : Idx4) (a b : α) : (q.set i a).set i b = q.set i b := by
  cases i <;> rfl

theorem Quad.ext_get {α : Type} {p q : Quad α} (h : ∀ i, p.get i = q.get i) : p = q := by
  cases p; cases q
  simp only [Quad.mk.injEq]
  exact ⟨h .i0, h .i1, h .i2, h .i3⟩

end Sys2Proof

namespace Sys2Proof.Machine

/-! ## A screen changed -/

section
variable (c : Card) (sc : Idx4)

@[simp] theorem Card.modScr_engine (f) : (c.modScr sc f).engine = c.engine := rfl
@[simp] theorem Card.modScr_header (f) : (c.modScr sc f).header = c.header := rfl
@[simp] theorem Card.modScr_slots (f) : (c.modScr sc f).slots = c.slots := rfl
@[simp] theorem Card.modScr_directory (f) : (c.modScr sc f).directory = c.directory := rfl
@[simp] theorem Card.modScr_fetch (f) : (c.modScr sc f).fetch = c.fetch := rfl
@[simp] theorem Card.modScr_permits (f) : (c.modScr sc f).permits = c.permits := rfl
@[simp] theorem Card.modScr_pool (f) : (c.modScr sc f).pool = c.pool := rfl
@[simp] theorem Card.modScr_auto (f) : (c.modScr sc f).auto = c.auto := rfl
@[simp] theorem Card.modScr_counter (f) : (c.modScr sc f).counter = c.counter := rfl
@[simp] theorem Card.modScr_owedPermits (f) : (c.modScr sc f).owedPermits = c.owedPermits := rfl
@[simp] theorem Card.modScr_owedLost (f) : (c.modScr sc f).owedLost = c.owedLost := rfl
@[simp] theorem Card.modScr_permitDue (f) : (c.modScr sc f).permitDue = c.permitDue := rfl
@[simp] theorem Card.modScr_boothDue (f) : (c.modScr sc f).boothDue = c.boothDue := rfl
@[simp] theorem Card.modScr_bus (f) : (c.modScr sc f).bus = c.bus := rfl
@[simp] theorem Card.modScr_seekDue (f) : (c.modScr sc f).seekDue = c.seekDue := rfl
@[simp] theorem Card.modScr_outbox (f) : (c.modScr sc f).outbox = c.outbox := rfl
@[simp] theorem Card.scr_modScr (f) : (c.modScr sc f).scr sc = f (c.scr sc) := by simp [Card.modScr, Card.scr]
theorem Card.scr_modScr_ne {sd : Idx4} (f) (h : sd ≠ sc) : (c.modScr sc f).scr sd = c.scr sd := by
  simp [Card.modScr, Card.scr, Quad.get_modify_ne _ _ h]

@[simp] theorem Card.modSeq_outbox (f) : (c.modSeq sc f).outbox = c.outbox := rfl
@[simp] theorem Card.modSeq_auto (f) : (c.modSeq sc f).auto = c.auto := rfl
@[simp] theorem Card.modSeq_engine (f) : (c.modSeq sc f).engine = c.engine := rfl
@[simp] theorem Card.modSeq_header (f) : (c.modSeq sc f).header = c.header := rfl
@[simp] theorem Card.modSeq_seekDue (f) : (c.modSeq sc f).seekDue = c.seekDue := rfl
@[simp] theorem Card.modSeq_bus (f) : (c.modSeq sc f).bus = c.bus := rfl
@[simp] theorem Card.modSeq_seq (f) : ((c.modSeq sc f).scr sc).seq = f (c.scr sc).seq := by simp [Card.modSeq]
@[simp] theorem Card.modSeq_port (f) : ((c.modSeq sc f).scr sc).port = (c.scr sc).port := by simp [Card.modSeq]
@[simp] theorem Card.modSeq_sound (f) : ((c.modSeq sc f).scr sc).sound = (c.scr sc).sound := by simp [Card.modSeq]
@[simp] theorem Card.modSeq_text (f) : ((c.modSeq sc f).scr sc).text = (c.scr sc).text := by simp [Card.modSeq]
@[simp] theorem Card.modSeq_pictureQueue (f) : ((c.modSeq sc f).scr sc).pictureQueue = (c.scr sc).pictureQueue := by
  simp [Card.modSeq]
@[simp] theorem Card.modSeq_soundQueue (f) : ((c.modSeq sc f).scr sc).soundQueue = (c.scr sc).soundQueue := by
  simp [Card.modSeq]

@[simp] theorem Card.modPort_outbox (f) : (c.modPort sc f).outbox = c.outbox := rfl
@[simp] theorem Card.modPort_auto (f) : (c.modPort sc f).auto = c.auto := rfl
@[simp] theorem Card.modPort_engine (f) : (c.modPort sc f).engine = c.engine := rfl
@[simp] theorem Card.modPort_header (f) : (c.modPort sc f).header = c.header := rfl
@[simp] theorem Card.modPort_bus (f) : (c.modPort sc f).bus = c.bus := rfl
@[simp] theorem Card.modPort_seekDue (f) : (c.modPort sc f).seekDue = c.seekDue := rfl
@[simp] theorem Card.modPort_seq (f) : ((c.modPort sc f).scr sc).seq = (c.scr sc).seq := by simp [Card.modPort]
@[simp] theorem Card.modPort_port (f) : ((c.modPort sc f).scr sc).port = f (c.scr sc).port := by simp [Card.modPort]
@[simp] theorem Card.modPort_sound (f) : ((c.modPort sc f).scr sc).sound = (c.scr sc).sound := by simp [Card.modPort]

@[simp] theorem Card.modSound_outbox (f) : (c.modSound sc f).outbox = c.outbox := rfl
@[simp] theorem Card.modSound_auto (f) : (c.modSound sc f).auto = c.auto := rfl
@[simp] theorem Card.modSound_engine (f) : (c.modSound sc f).engine = c.engine := rfl
@[simp] theorem Card.modSound_header (f) : (c.modSound sc f).header = c.header := rfl
@[simp] theorem Card.modSound_bus (f) : (c.modSound sc f).bus = c.bus := rfl
@[simp] theorem Card.modSound_seekDue (f) : (c.modSound sc f).seekDue = c.seekDue := rfl
@[simp] theorem Card.modSound_seq (f) : ((c.modSound sc f).scr sc).seq = (c.scr sc).seq := by simp [Card.modSound]
@[simp] theorem Card.modSound_port (f) : ((c.modSound sc f).scr sc).port = (c.scr sc).port := by simp [Card.modSound]
@[simp] theorem Card.modSound_sound (f) : ((c.modSound sc f).scr sc).sound = f (c.scr sc).sound := by
  simp [Card.modSound]

@[simp] theorem Card.modText_outbox (f) : (c.modText sc f).outbox = c.outbox := rfl
@[simp] theorem Card.modText_auto (f) : (c.modText sc f).auto = c.auto := rfl
@[simp] theorem Card.modText_seq (f) : ((c.modText sc f).scr sc).seq = (c.scr sc).seq := by simp [Card.modText]
@[simp] theorem Card.modText_text (f) : ((c.modText sc f).scr sc).text = f (c.scr sc).text := by simp [Card.modText]

end

/-! ## Publications -/

section
variable (c : Card)

@[simp] theorem Card.publish_outbox (p) : (c.publish p).outbox = c.outbox ++ [p] := rfl
@[simp] theorem Card.publish_screens (p) : (c.publish p).screens = c.screens := rfl
@[simp] theorem Card.publish_engine (p) : (c.publish p).engine = c.engine := rfl
@[simp] theorem Card.publish_header (p) : (c.publish p).header = c.header := rfl
@[simp] theorem Card.publish_auto (p) : (c.publish p).auto = c.auto := rfl
@[simp] theorem Card.publish_permits (p) : (c.publish p).permits = c.permits := rfl
@[simp] theorem Card.publish_counter (p) : (c.publish p).counter = c.counter := rfl
@[simp] theorem Card.publish_bus (p) : (c.publish p).bus = c.bus := rfl
@[simp] theorem Card.publish_seekDue (p) : (c.publish p).seekDue = c.seekDue := rfl
@[simp] theorem Card.publish_scr (p sc) : (c.publish p).scr sc = c.scr sc := rfl
@[simp] theorem Card.raise_scr (sh k fs sc) : (c.raise sh k fs).scr sc = c.scr sc := rfl
@[simp] theorem Card.raise_auto (sh k fs) : (c.raise sh k fs).auto = c.auto := rfl
@[simp] theorem Card.raise_engine (sh k fs) : (c.raise sh k fs).engine = c.engine := rfl
@[simp] theorem Card.raise_header (sh k fs) : (c.raise sh k fs).header = c.header := rfl
@[simp] theorem Card.raise_permits (sh k fs) : (c.raise sh k fs).permits = c.permits := rfl
@[simp] theorem Card.raise_counter (sh k fs) : (c.raise sh k fs).counter = c.counter := rfl
@[simp] theorem Card.raise_bus (sh k fs) : (c.raise sh k fs).bus = c.bus := rfl
@[simp] theorem Card.raise_seekDue (sh k fs) : (c.raise sh k fs).seekDue = c.seekDue := rfl
@[simp] theorem Card.answer_scr (sh n r fs sc) : (c.answer sh n r fs).scr sc = c.scr sc := rfl
@[simp] theorem Card.answer_auto (sh n r fs) : (c.answer sh n r fs).auto = c.auto := rfl
@[simp] theorem Card.answer_engine (sh n r fs) : (c.answer sh n r fs).engine = c.engine := rfl
@[simp] theorem Card.answer_header (sh n r fs) : (c.answer sh n r fs).header = c.header := rfl
@[simp] theorem Card.answer_permits (sh n r fs) : (c.answer sh n r fs).permits = c.permits := rfl
@[simp] theorem Card.answer_counter (sh n r fs) : (c.answer sh n r fs).counter = c.counter := rfl
@[simp] theorem Card.answer_bus (sh n r fs) : (c.answer sh n r fs).bus = c.bus := rfl
@[simp] theorem Card.answer_seekDue (sh n r fs) : (c.answer sh n r fs).seekDue = c.seekDue := rfl
@[simp] theorem Card.answer_outbox (sh n r fs) :
    (c.answer sh n r fs).outbox = c.outbox ++ [.answer sh n r.code (answerDetail fs)] := rfl
@[simp] theorem Card.busDone_scr (a sc) : (c.busDone a).scr sc = c.scr sc := rfl
@[simp] theorem Card.busDone_outbox (a) : (c.busDone a).outbox = c.outbox := rfl
@[simp] theorem Card.busDone_auto (a) : (c.busDone a).auto = c.auto := rfl
@[simp] theorem Card.busDone_engine (a) : (c.busDone a).engine = c.engine := rfl
@[simp] theorem Card.busDone_header (a) : (c.busDone a).header = c.header := rfl
@[simp] theorem Card.busDone_seekDue (a) : (c.busDone a).seekDue = c.seekDue := rfl

end

/-! ## The counter, the automation unit and the permit table -/

section
variable (c : Card)

@[simp] theorem Card.noteBooth_auto (d : Card) : (c.noteBooth d).auto = d.auto := rfl
@[simp] theorem Card.noteBooth_counter (d : Card) : (c.noteBooth d).counter = d.counter := rfl
@[simp] theorem Card.noteBooth_engine (d : Card) : (c.noteBooth d).engine = d.engine := rfl
@[simp] theorem Card.noteBooth_header (d : Card) : (c.noteBooth d).header = d.header := rfl
@[simp] theorem Card.noteBooth_screens (d : Card) : (c.noteBooth d).screens = d.screens := rfl
@[simp] theorem Card.noteBooth_permits (d : Card) : (c.noteBooth d).permits = d.permits := rfl
@[simp] theorem Card.noteBooth_pool (d : Card) : (c.noteBooth d).pool = d.pool := rfl
@[simp] theorem Card.noteBooth_slots (d : Card) : (c.noteBooth d).slots = d.slots := rfl
@[simp] theorem Card.noteBooth_directory (d : Card) : (c.noteBooth d).directory = d.directory := rfl
@[simp] theorem Card.noteBooth_fetch (d : Card) : (c.noteBooth d).fetch = d.fetch := rfl
@[simp] theorem Card.noteBooth_bus (d : Card) : (c.noteBooth d).bus = d.bus := rfl
@[simp] theorem Card.noteBooth_outbox (d : Card) : (c.noteBooth d).outbox = d.outbox := rfl
@[simp] theorem Card.noteBooth_seekDue (d : Card) : (c.noteBooth d).seekDue = d.seekDue := rfl
@[simp] theorem Card.noteBooth_owedPermits (d : Card) : (c.noteBooth d).owedPermits = d.owedPermits := rfl
@[simp] theorem Card.noteBooth_owedLost (d : Card) : (c.noteBooth d).owedLost = d.owedLost := rfl
@[simp] theorem Card.noteBooth_permitDue (d : Card) : (c.noteBooth d).permitDue = d.permitDue := rfl
@[simp] theorem Card.noteBooth_boothDue (d : Card) :
    (c.noteBooth d).boothDue = (d.boothDue || decide (d.boothReportFields ≠ c.boothReportFields)) := rfl
@[simp] theorem Card.modCounter_counter (f) : (c.modCounter f).counter = f c.counter := rfl
@[simp] theorem Card.modAuto_auto (f) : (c.modAuto f).auto = f c.auto := rfl
@[simp] theorem Card.setPlace_permitDue (i p) : (c.setPlace i p).permitDue = c.permitDue := rfl
@[simp] theorem Card.putPermit_permitDue (i p) : (c.putPermit i p).permitDue = true := rfl
@[simp] theorem Card.storePermit_permitDue (i p) : (c.storePermit i p).permitDue = true := rfl
theorem Permit.content_check (p : Permit) (k : U32) : ({ p with check := k } : Permit).content = p.content := rfl
theorem ShowingRecord.body_check (r : ShowingRecord) (k : U32) :
    ({ r with check := k } : ShowingRecord).body = r.body := rfl
@[simp] theorem Permit.withCheck_content (p : Permit) : p.withCheck.content = p.content := Permit.content_check p _
@[simp] theorem Permit.withCheck_holds (p : Permit) : p.withCheck.checkHolds = true := by
  simp [Permit.checkHolds, Permit.withCheck, Permit.content]
@[simp] theorem ShowingRecord.withCheck_body (r : ShowingRecord) : r.withCheck.body = r.body :=
  ShowingRecord.body_check r _
@[simp] theorem ShowingRecord.withCheck_state (r : ShowingRecord) : r.withCheck.state = r.state := by
  rw [ShowingRecord.withCheck]
@[simp] theorem ShowingRecord.withCheck_check (r : ShowingRecord) : r.withCheck.check = checkValue r.body := by
  rw [ShowingRecord.withCheck]
@[simp] theorem ShowingRecord.withCheck_holds (r : ShowingRecord) : r.withCheck.checkHolds = true := by
  rw [ShowingRecord.checkHolds, ShowingRecord.withCheck_body, ShowingRecord.withCheck_check, beq_self_eq_true]

end

/-! ## The scanner, memory and the window -/

section
variable (s : State)

@[simp] theorem State.store_card (a bs) : (s.store a bs).card = s.card := rfl
@[simp] theorem State.store_scan (a bs) : (s.store a bs).scan = s.scan := rfl
@[simp] theorem State.store_window (a bs) : (s.store a bs).window = s.window := rfl
@[simp] theorem State.store_pending (a bs) : (s.store a bs).pending = s.pending := rfl
@[simp] theorem State.store_powered (a bs) : (s.store a bs).powered = s.powered := rfl
@[simp] theorem State.store_mem (a bs) : (s.store a bs).mem = s.mem.writeBytes a bs := rfl
@[simp] theorem State.setCause_card (sh) : (s.setCause sh).card = s.card := rfl
@[simp] theorem State.setCause_mem (sh) : (s.setCause sh).mem = s.mem := rfl
@[simp] theorem State.setCause_scan (sh) : (s.setCause sh).scan = s.scan := rfl
@[simp] theorem State.setCause_pending (sh) : (s.setCause sh).pending = s.pending := rfl
@[simp] theorem State.setCause_powered (sh) : (s.setCause sh).powered = s.powered := rfl
@[simp] theorem State.setCause_window (sh) :
    (s.setCause sh).window = { s.window with attention := s.window.attention ||| sh.causeBit } := rfl
@[simp] theorem State.modWindow_window (f) : (s.modWindow f).window = f s.window := rfl
@[simp] theorem State.modWindow_card (f) : (s.modWindow f).card = s.card := rfl
@[simp] theorem State.modWindow_mem (f) : (s.modWindow f).mem = s.mem := rfl
@[simp] theorem State.modWindow_scan (f) : (s.modWindow f).scan = s.scan := rfl
@[simp] theorem State.modWindow_pending (f) : (s.modWindow f).pending = s.pending := rfl
@[simp] theorem State.modWindow_powered (f) : (s.modWindow f).powered = s.powered := rfl
@[simp] theorem State.hostWrites_card (w) : (s.hostWrites w).card = s.card := rfl
@[simp] theorem State.hostWrites_scan (w) : (s.hostWrites w).scan = s.scan := rfl
@[simp] theorem State.hostWrites_window (w) : (s.hostWrites w).window = s.window := rfl
@[simp] theorem State.hostWrites_pending (w) : (s.hostWrites w).pending = s.pending := rfl
@[simp] theorem State.hostWrites_powered (w) : (s.hostWrites w).powered = s.powered := rfl
@[simp] theorem State.hostWrites_mem (w) : (s.hostWrites w).mem = s.mem.hostStore w := rfl
@[simp] theorem State.setLastTaken_card (sh n) : (s.setLastTaken sh n).card = s.card := rfl
@[simp] theorem State.setLastTaken_mem (sh n) : (s.setLastTaken sh n).mem = s.mem := rfl
@[simp] theorem State.setLastTaken_window (sh n) : (s.setLastTaken sh n).window = s.window := rfl
@[simp] theorem State.setLastTaken_pending (sh n) : (s.setLastTaken sh n).pending = s.pending := rfl
@[simp] theorem State.setLastTaken_powered (sh n) : (s.setLastTaken sh n).powered = s.powered := rfl

@[simp] theorem State.setTaken_card (sh b) : (s.setTaken sh b).card = s.card := rfl
@[simp] theorem State.setTaken_mem (sh b) : (s.setTaken sh b).mem = s.mem := rfl
@[simp] theorem State.setTaken_window (sh b) : (s.setTaken sh b).window = s.window := rfl
@[simp] theorem State.setTaken_pending (sh b) : (s.setTaken sh b).pending = s.pending := rfl
@[simp] theorem State.setTaken_powered (sh b) : (s.setTaken sh b).powered = s.powered := rfl
@[simp] theorem State.raiseOwed_mem : s.raiseOwed.mem = s.mem := rfl
@[simp] theorem State.raiseOwed_scan : s.raiseOwed.scan = s.scan := rfl
@[simp] theorem State.raiseOwed_window : s.raiseOwed.window = s.window := rfl
@[simp] theorem State.raiseOwed_pending : s.raiseOwed.pending = s.pending := rfl
@[simp] theorem State.raiseOwed_powered : s.raiseOwed.powered = s.powered := rfl

@[simp] theorem Scanner.get_set (x : Scanner) (sh : Sheet) (v : SheetScan) : (x.set sh v).get sh = v := by
  cases sh <;> simp [Scanner.set, Scanner.get]

theorem Scanner.get_set_ne (x : Scanner) {sh sh' : Sheet} (v : SheetScan) (h : sh' ≠ sh) :
    (x.set sh v).get sh' = x.get sh' := by
  cases sh <;> cases sh' <;> simp_all [Scanner.set, Scanner.get, Quad.get_set_ne]

end

end Sys2Proof.Machine
end

