-- ==== Sys2Proof/Laws/Memory.lean ====
section
/-! SUPPORT. Booth memory: what reading gives after each write, and that every memory operation keeps the canonical
form. -/
namespace Sys2Proof.Machine

/-! ## Finite maps -/

/-- Every key of a map is above a bound. -/
def FMap.Above {β : Type} (n : Nat) (m : FMap β) : Prop := ∀ p ∈ m, n < p.1

theorem FMap.sorted_cons {β : Type} {p : Nat × β} {m : FMap β} :
    FMap.Sorted (p :: m) ↔ FMap.Above p.1 m ∧ FMap.Sorted m := by
  simp [FMap.Sorted, FMap.Above, List.pairwise_cons]

theorem FMap.mem_put {β : Type} {m : FMap β} {a : Nat} {v : β} {p : Nat × β} (h : p ∈ FMap.put m a v) :
    p = (a, v) ∨ p ∈ m := by
  induction m with
  | nil => simp [FMap.put] at h; exact .inl h
  | cons x t ih =>
    simp only [FMap.put] at h
    split at h
    · simpa using h
    · split at h
      · rcases List.mem_cons.mp h with h | h
        · exact .inl h
        · exact .inr (List.mem_cons_of_mem _ h)
      · rcases List.mem_cons.mp h with h | h
        · exact .inr (h ▸ List.mem_cons_self)
        · exact (ih h).imp id (List.mem_cons_of_mem _)

theorem FMap.mem_erase {β : Type} {m : FMap β} {a : Nat} {p : Nat × β} (h : p ∈ FMap.erase m a) : p ∈ m := by
  induction m with
  | nil => exact h
  | cons x t ih =>
    simp only [FMap.erase] at h
    split at h
    · exact List.mem_cons_of_mem _ (ih h)
    · rcases List.mem_cons.mp h with h | h
      · exact h ▸ List.mem_cons_self
      · exact List.mem_cons_of_mem _ (ih h)

theorem FMap.sorted_put {β : Type} {m : FMap β} {a : Nat} {v : β} (h : FMap.Sorted m) :
    FMap.Sorted (FMap.put m a v) := by
  induction m with
  | nil => simp [FMap.put, FMap.Sorted]
  | cons x t ih =>
    obtain ⟨hx, ht⟩ := FMap.sorted_cons.mp h
    simp only [FMap.put]
    split
    · rename_i ha
      exact FMap.sorted_cons.mpr ⟨fun p hp => (List.mem_cons.mp hp).elim (fun e => e ▸ ha)
        (fun e => Nat.lt_trans ha (hx p e)), h⟩
    · split
      · rename_i _ he
        exact FMap.sorted_cons.mpr ⟨fun p hp => he ▸ hx p hp, ht⟩
      · rename_i h1 h2
        refine FMap.sorted_cons.mpr ⟨fun p hp => ?_, ih ht⟩
        rcases FMap.mem_put hp with e | e
        · subst e
          simp only
          omega
        · exact hx p e

theorem FMap.sorted_erase {β : Type} {m : FMap β} {a : Nat} (h : FMap.Sorted m) : FMap.Sorted (FMap.erase m a) := by
  induction m with
  | nil => exact h
  | cons x t ih =>
    obtain ⟨hx, ht⟩ := FMap.sorted_cons.mp h
    simp only [FMap.erase]
    split
    · exact ih ht
    · exact FMap.sorted_cons.mpr ⟨fun p hp => hx p (FMap.mem_erase hp), ih ht⟩

theorem FMap.find_above {β : Type} {m : FMap β} {n a : Nat} (h : FMap.Above n m) (ha : a ≤ n) :
    FMap.find m a = none := by
  induction m with
  | nil => rfl
  | cons x t ih =>
    have hx := h x List.mem_cons_self
    rw [show x = (x.1, x.2) from rfl, FMap.find, if_neg (by omega)]
    exact ih (fun p hp => h p (List.mem_cons_of_mem _ hp))

theorem FMap.find_put {β : Type} (m : FMap β) (a b : Nat) (v : β) :
    FMap.find (FMap.put m a v) b = if b = a then some v else FMap.find m b := by
  induction m with
  | nil => simp [FMap.put, FMap.find]
  | cons x t ih =>
    obtain ⟨k, w⟩ := x
    simp only [FMap.put]
    split
    · simp [FMap.find]
    · split
      · rename_i _ he
        subst he
        simp only [FMap.find]
        split <;> simp
      · rename_i h1 h2
        simp only [FMap.find, ih]
        by_cases hk : b = k
        · subst hk
          simp only [if_pos]
          rw [if_neg (by omega)]
        · simp [hk]

theorem FMap.find_erase {β : Type} (m : FMap β) (a b : Nat) :
    FMap.find (FMap.erase m a) b = if b = a then none else FMap.find m b := by
  induction m with
  | nil => simp [FMap.erase, FMap.find]
  | cons x t ih =>
    obtain ⟨k, w⟩ := x
    simp only [FMap.erase, FMap.find]
    split
    · rename_i he
      subst he
      rw [ih]
      split <;> simp [*]
    · simp only [FMap.find, ih]
      by_cases hk : b = k
      · subst hk
        simp only [if_pos]
        rw [if_neg (by omega)]
      · simp [hk]

/-! ## Reading after writing -/

/-- What a read gives after a write, at every address. -/
theorem Mem.read_write (m : Mem) (a b : Nat) (v : Byte) :
    Mem.read (Mem.write m a v) b = if b % addressSpace = a % addressSpace then v else Mem.read m b := by
  unfold Mem.read Mem.write
  split
  · rename_i hv
    rw [FMap.find_erase]
    split <;> simp [hv]
  · rw [FMap.find_put]
    split <;> simp

/-- A write leaves every address outside the written bytes as it was. -/
theorem Mem.read_writeBytes_ne (m : Mem) (a b : Nat) (bs : List Byte)
    (h : ∀ k, k < bs.length → b % addressSpace ≠ (a + k) % addressSpace) :
    Mem.read (Mem.writeBytes m a bs) b = Mem.read m b := by
  induction bs generalizing m a with
  | nil => rfl
  | cons x t ih =>
    rw [Mem.writeBytes, ih, Mem.read_write, if_neg]
    · exact h 0 (by simp)
    · intro k hk
      have := h (k + 1) (by simpa using hk)
      rwa [show a + 1 + k = a + (k + 1) by omega]

/-- A written byte is read back, as long as no more bytes are written than there are addresses. -/
theorem Mem.read_writeBytes_at (m : Mem) (a : Nat) (bs : List Byte) (k : Nat) (hk : k < bs.length)
    (hl : bs.length ≤ addressSpace) : Mem.read (Mem.writeBytes m a bs) (a + k) = bs[k] := by
  induction bs generalizing m a k with
  | nil => exact absurd hk (Nat.not_lt_zero _)
  | cons x t ih =>
    rw [Mem.writeBytes]
    cases k with
    | zero =>
      rw [Mem.read_writeBytes_ne, Mem.read_write]
      · simp
      · intro j hj
        simp only [List.length_cons] at hl
        unfold addressSpace at *
        omega
    | succ k =>
      have := ih (Mem.write m a x) (a + 1) k (by simpa using hk) (by simp at hl; omega)
      rw [show a + (k + 1) = a + 1 + k by omega, this]
      rfl

theorem Mem.length_readBytes (m : Mem) (a n : Nat) : (Mem.readBytes m a n).length = n := by
  induction n generalizing a with
  | zero => rfl
  | succ n ih => simp [Mem.readBytes, ih]

theorem Mem.getElem_readBytes (m : Mem) (a n k : Nat) (h : k < (Mem.readBytes m a n).length) :
    (Mem.readBytes m a n)[k] = Mem.read m (a + k) := by
  induction n generalizing a k with
  | zero => simp [Mem.readBytes] at h
  | succ n ih =>
    cases k with
    | zero => rfl
    | succ k =>
      simp only [Mem.readBytes, List.getElem_cons_succ]
      rw [ih]
      rw [show a + 1 + k = a + (k + 1) by omega]

/-- Part of what was written, read back. -/
theorem Mem.readBytes_writeBytes (m : Mem) (a : Nat) (bs : List Byte) (off n : Nat) (h : off + n ≤ bs.length)
    (hl : bs.length ≤ addressSpace) :
    Mem.readBytes (Mem.writeBytes m a bs) (a + off) n = slice bs off n := by
  refine List.ext_getElem ?_ ?_
  · rw [Mem.length_readBytes]
    simp [slice]
    omega
  · intro k h1 h2
    rw [Mem.getElem_readBytes, show a + off + k = a + (off + k) by omega]
    rw [Mem.length_readBytes] at h1
    rw [Mem.read_writeBytes_at _ _ _ _ (by omega) hl]
    simp [slice]

/-! ## The canonical form -/

theorem Mem.wf_nil : Mem.wf [] := ⟨List.Pairwise.nil, by simp⟩

theorem Mem.wf_write {m : Mem} (h : Mem.wf m) (a : Nat) (b : Byte) : Mem.wf (Mem.write m a b) := by
  unfold Mem.write
  split
  · exact ⟨FMap.sorted_erase h.1, fun p hp => h.2 p (FMap.mem_erase hp)⟩
  · rename_i hb
    refine ⟨FMap.sorted_put h.1, fun p hp => ?_⟩
    rcases FMap.mem_put hp with e | e
    · subst e
      exact ⟨Nat.mod_lt _ (by unfold addressSpace; omega), hb⟩
    · exact h.2 p e

theorem Mem.wf_writeBytes {m : Mem} (h : Mem.wf m) (a : Nat) (bs : List Byte) : Mem.wf (Mem.writeBytes m a bs) := by
  induction bs generalizing m a with
  | nil => exact h
  | cons x t ih => exact ih (Mem.wf_write h a x) (a + 1)

theorem Mem.wf_hostStore {m : Mem} (h : Mem.wf m) (w : HostWrites) : Mem.wf (Mem.hostStore m w) := by
  induction w generalizing m with
  | nil => exact h
  | cons x t ih => exact ih (Mem.wf_write h x.1.toNat x.2)

theorem State.wf_store {s : State} (h : Mem.wf s.mem) (a : Nat) (bs : List Byte) : Mem.wf (s.store a bs).mem :=
  Mem.wf_writeBytes h a bs

theorem State.wf_hostWrites {s : State} (h : Mem.wf s.mem) (w : HostWrites) : Mem.wf (s.hostWrites w).mem :=
  Mem.wf_hostStore h w

/-! ## Fields -/

theorem leBytes_length (v w : Nat) : (leBytes v w).length = w := by
  induction w generalizing v with
  | zero => rfl
  | succ w ih => simp [leBytes, ih]

/-- The number a little-endian field spells is the number written, as far as the field is wide. -/
theorem leNat_leBytes (v w : Nat) : leNat (leBytes v w) = v % 256 ^ w := by
  induction w generalizing v with
  | zero => simp [leBytes, leNat, Nat.mod_one]
  | succ w ih =>
    simp only [leBytes, leNat, ih, BitVec.toNat_ofNat]
    rw [show (2 : Nat) ^ 8 = 256 from rfl, Nat.pow_succ, Nat.mul_comm (256 ^ w) 256, Nat.mod_mul]

end Sys2Proof.Machine
end

