-- ==== Sys2Proof/Laws/Publish.lean ====
section
/-! SUPPORT. What publication and the end of a step (State.finish) can change: said once, field by field. -/
namespace Sys2Proof.Machine

/-- What publication leaves of a state: main power, the waiting commands, every register but ATTENTION, and every part
of the card but the tries on the bus and the due marks of the permit and booth reports. -/
structure Published (s t : State) : Prop where
  pending : t.pending = s.pending
  powered : t.powered = s.powered
  window : ∃ a, t.window = { s.window with attention := a }
  card : ∃ b d e, t.card = { s.card with bus := b, permitDue := d, boothDue := e }
  mem : Mem.wf s.mem → Mem.wf t.mem
  fits : s.detailsFit → t.detailsFit

theorem Published.refl (s : State) : Published s s := ⟨rfl, rfl, ⟨_, rfl⟩, ⟨_, _, _, rfl⟩, id, id⟩

theorem Published.trans {s t u : State} (h : Published s t) (k : Published t u) : Published s u := by
  obtain ⟨a, ha⟩ := h.window
  obtain ⟨a', ha'⟩ := k.window
  obtain ⟨b, d, e, hc⟩ := h.card
  obtain ⟨b', d', e', hc'⟩ := k.card
  exact ⟨k.pending.trans h.pending, k.powered.trans h.powered, ⟨a', by rw [ha', ha]⟩, ⟨b', d', e', by rw [hc', hc]⟩,
    fun w => k.mem (h.mem w), fun f => k.fits (h.fits f)⟩

theorem published_store (s : State) (a : Nat) (bs : List Byte) : Published s (s.store a bs) :=
  ⟨rfl, rfl, ⟨_, rfl⟩, ⟨_, _, _, rfl⟩, fun w => State.wf_store w a bs, id⟩

theorem published_setCause (s : State) (sh : Sheet) : Published s (s.setCause sh) :=
  ⟨rfl, rfl, ⟨_, rfl⟩, ⟨_, _, _, rfl⟩, id, id⟩

theorem SheetScan.place_setPlace (x : SheetScan) (k j : NoticeKind) (p : NoticePlace) :
    (x.setPlace k p).place j = if j.place = k.place then p else x.place j := by
  unfold SheetScan.place SheetScan.setPlace
  rw [FMap.find_put]
  split <;> rfl

/-- A sheet's scan replaced by one whose details fit. -/
theorem detailsFit_set {s : State} (hs : s.detailsFit) (sh : Sheet) (x : SheetScan)
    (hx : ∀ k, (x.place k).detail.length ≤ 120) : ({ s with scan := s.scan.set sh x } : State).detailsFit := by
  intro sd k
  by_cases hd : sd = sh
  · subst hd; simpa using hx k
  · simpa [Scanner.get_set_ne _ _ hd] using hs sd k

/-- A notice place replaced by one whose detail fits. -/
theorem detailsFit_setPlace {s : State} (hs : s.detailsFit) (sh : Sheet) (k : NoticeKind) (p : NoticePlace)
    (hp : p.detail.length ≤ 120) :
    ({ s with scan := s.scan.set sh ((s.scan.get sh).setPlace k p) } : State).detailsFit :=
  detailsFit_set hs sh _ fun j => by
    rw [SheetScan.place_setPlace]
    split
    · exact hp
    · exact hs sh j

theorem published_place (s : State) (sh : Sheet) (k : NoticeKind) (p : NoticePlace)
    (hp : s.detailsFit → p.detail.length ≤ 120) :
    Published s { s with scan := s.scan.set sh ((s.scan.get sh).setPlace k p) } :=
  ⟨rfl, rfl, ⟨_, rfl⟩, ⟨_, _, _, rfl⟩, id, fun hs => detailsFit_setPlace hs sh k p (hp hs)⟩

theorem published_bus (s : State) (a : BusAccess) : Published s { s with card := s.card.busDone a } :=
  ⟨rfl, rfl, ⟨_, rfl⟩, ⟨_, _, _, rfl⟩, id, id⟩

theorem published_beginNotice (s : State) (h : Header) (sh : Sheet) (k : NoticeKind) :
    Published s (s.beginNotice h sh k) :=
  (published_store s _ _).trans (published_place _ _ _ _ fun hs => hs sh k)

theorem published_noticeRaised (s : State) (sh : Sheet) (k : NoticeKind) (d : List Byte) :
    Published s (s.noticeRaised sh k d) := by
  have base : ∀ b : Bool, Published s { s with scan := s.scan.set sh ((s.scan.get sh).setPlace k
      (if b then { (s.scan.get sh).place k with
          count := ((s.scan.get sh).place k).count + 1, detail := d.take 120, newer := true }
        else { (s.scan.get sh).place k with
          count := ((s.scan.get sh).place k).count + 1, detail := d.take 120 })) } := fun b =>
    published_place s sh k _ fun _ => by cases b <;> exact List.length_take_le 120 d
  unfold State.noticeRaised
  simp only
  split
  · exact base _
  · split
    · exact (base _).trans (published_beginNotice _ _ _ _)
    · exact base _

theorem published_publishFault (s : State) (place : Nat) (item : FaultItem) (addr : Nat) :
    Published s (s.publishFault place item addr) := published_noticeRaised _ _ _ _

theorem published_publishAnswer (s : State) (h : Header) (sh : Sheet) (n : U32) (r : Nat) (d : List Byte) :
    Published s (s.publishAnswer h sh n r d) := by
  unfold State.publishAnswer
  simp only
  split
  · split
    · exact (published_bus s _).trans (published_publishFault _ _ _ _)
    · exact ((published_bus s _).trans (published_store _ _ _)).trans (published_setCause _ _)
  · exact .refl s

theorem published_reportAgain (s : State) (sh : Sheet) : Published s (s.reportAgain sh) := by
  cases sh <;> exact ⟨rfl, rfl, ⟨_, rfl⟩, ⟨_, _, _, rfl⟩, id, id⟩

theorem published_reportWrite (s : State) (sh : Sheet) (q : U32) :
    Published s { s with
      card := s.card.busDone (.reportWrite sh)
      scan := s.scan.set sh { s.scan.get sh with reportSeq := q } } :=
  ⟨rfl, rfl, ⟨_, rfl⟩, ⟨_, _, _, rfl⟩, id, fun hs => detailsFit_set hs sh _ fun k => hs sh k⟩

theorem published_publishReport (s : State) (h : Header) (sh : Sheet) (fs : List (Nat × Nat))
    (gs : List (List (Nat × Nat))) : Published s (s.publishReport h sh fs gs) := by
  unfold State.publishReport
  simp only
  split
  · split
    · refine Published.trans ?_ (published_publishFault _ _ _ _)
      split
      · exact (published_reportWrite s sh _).trans (published_reportAgain _ _)
      · exact published_reportWrite s sh _
    · cases sh
      · exact (published_reportWrite s _ _).trans (published_store _ _ _)
      · exact ((published_reportWrite s _ _).trans (published_store _ _ _)).trans (published_setCause _ _)
      · exact ((published_reportWrite s _ _).trans (published_store _ _ _)).trans (published_setCause _ _)
  · exact published_reportAgain _ _

theorem published_publishSlotAnswer (s : State) (h : Header) (slot : Nat) (g : U32) (r : Nat) :
    Published s (s.publishSlotAnswer h slot g r) := by
  unfold State.publishSlotAnswer
  simp only
  split
  · exact (published_bus s _).trans (published_publishFault _ _ _ _)
  · exact (published_bus s _).trans (published_store _ _ _)

theorem published_publishPageAnswer (s : State) (h : Header) (page : Nat) (g : U32) (r : Nat) :
    Published s (s.publishPageAnswer h page g r) := by
  unfold State.publishPageAnswer
  simp only
  split
  · split
    · exact (published_bus s _).trans (published_publishFault _ _ _ _)
    · exact (published_bus s _).trans (published_store _ _ _)
  · exact .refl s

theorem published_publishPageFill (s : State) (h : Header) (page fill : Nat) (g : Option U32) :
    Published s (s.publishPageFill h page fill g) := by
  unfold State.publishPageFill
  split
  · exact published_store _ _ _
  · exact .refl s

theorem published_publishOne (s : State) (p : Publication) : Published s (s.publishOne p) := by
  unfold State.publishOne
  split
  · split
    · exact published_noticeRaised _ _ _ _
    · exact .refl s
  · split
    · exact published_noticeRaised _ _ _ _
    · exact published_publishAnswer _ _ _ _ _ _
    · exact published_publishReport _ _ _ _ _
    · exact published_publishSlotAnswer _ _ _ _ _
    · exact published_publishPageAnswer _ _ _ _ _
    · exact published_publishPageFill _ _ _ _ _
    · exact published_store _ _ _

theorem published_foldl (ps : List Publication) (s : State) : Published s (ps.foldl State.publishOne s) := by
  induction ps generalizing s with
  | nil => exact .refl s
  | cons p t ih => exact (published_publishOne s p).trans (ih _)

/-- Publication empties what was handed over and changes nothing else but what Published names. -/
theorem published_publishAll (s : State) :
    Published { s with card := { s.card with outbox := [] } } s.publishAll := published_foldl _ _

/-! ## The scanner's own writes of notice places -/

theorem published_endNotice (s : State) (h : Header) (sh : Sheet) (k : NoticeKind) :
    Published s (s.endNotice h sh k) := by
  unfold State.endNotice
  simp only
  split
  · exact .refl s
  · rename_i n _
    have stored := (published_store s (h.noticeAddr sh k + 124) (leBytes n.toNat 4)).trans (published_setCause _ sh)
    split
    · exact stored.trans (published_beginNotice _ _ _ _)
    · exact stored.trans (published_place _ sh k _ fun hs => hs sh k)

theorem published_seedPlace (s : State) (h : Header) (sh : Sheet) (k : NoticeKind) :
    Published s (State.seedPlace h sh s k) := by
  unfold State.seedPlace
  simp only
  have placed := published_place s sh k
    { (s.scan.get sh).place k with
      count := BitVec.ofNat 32 (s.mem.field (h.noticeAddr sh k + 124) 4) + ((s.scan.get sh).place k).count }
    fun hs => hs sh k
  split
  · exact placed
  · exact placed.trans (published_beginNotice _ _ _ _)

theorem failNotice_detailsFit {s : State} (hs : s.detailsFit) (h : Header) (sh : Sheet) (k : NoticeKind) :
    (s.failNotice h sh k).detailsFit := by
  unfold State.failNotice
  simp only
  split
  · exact hs
  · have placed := detailsFit_setPlace hs sh k
      { (s.scan.get sh).place k with writing := none, retry := k == .memoryFault } (hs sh k)
    have begun := (published_beginNotice _ h sh k).fits placed
    split <;> split <;> assumption

theorem seedSheet_detailsFit {s : State} (hs : s.detailsFit) (h : Header) (sh : Sheet) :
    (State.seedSheet h s sh).detailsFit := by
  unfold State.seedSheet
  simp only
  split
  · exact hs
  · have fold : ∀ (ks : List NoticeKind) (t : State), t.detailsFit →
        (ks.foldl (State.seedPlace h sh) t).detailsFit := by
      intro ks
      induction ks with
      | nil => exact fun _ ht => ht
      | cons k ks ih => exact fun t ht => ih _ ((published_seedPlace t h sh k).fits ht)
    exact fold _ _ (detailsFit_set hs sh _ fun k => hs sh k)

theorem seedSheets_detailsFit {s : State} (hs : s.detailsFit) (h : Header) : (s.seedSheets h).detailsFit := by
  unfold State.seedSheets
  generalize h.scannedSheets.filter _ = shs
  induction shs generalizing s with
  | nil => exact hs
  | cons sh shs ih => exact ih (seedSheet_detailsFit hs h sh)

/-! ## The end of a step -/

/-- Sound records that differ in the fader's target and step alone. -/
def Sound.SameButTarget (x y : Sound) : Prop := ∃ t k, y = { x with target := t, step := k }

theorem Sound.SameButTarget.refl (x : Sound) : x.SameButTarget x := ⟨x.target, x.step, rfl⟩

theorem Sound.sameButTarget_aim (x : Sound) (t n : Nat) : x.SameButTarget (x.aim t n) := by
  unfold Sound.aim
  split
  · exact .refl x
  · exact ⟨_, _, rfl⟩

/-- What settling the fader targets does to the card: each screen's target and step, nothing else. -/
theorem settleTargets_spec (c : Card) :
    ∃ q : Quad Screen, c.settleTargets = { c with screens := q } ∧
      ∀ sc, ∃ y, (c.scr sc).sound.SameButTarget y ∧ q.get sc = { c.scr sc with sound := y } := by
  have one : ∀ (d : Card) (i : Idx4), d.settleTarget i = { d with screens := d.screens.set i { d.scr i with
      sound := (d.scr i).sound.aim (d.effectiveTarget i) (muteLength (d.scr i).sound.linkRate) } } := fun d i => rfl
  unfold Card.settleTargets Idx4.all
  simp only [List.foldl, one]
  refine ⟨_, rfl, fun sc => ?_⟩
  cases sc <;> exact ⟨_, Sound.sameButTarget_aim _ _ _, rfl⟩

/-- What the search for a page can change of the counter: its pages, the current page, the write in flight and the marks
of the search. -/
structure Counter.Sought (k k' : Counter) : Prop where
  holding : k'.holding = k.holding
  nextNumber : k'.nextNumber = k.nextNumber
  plays : k'.plays = k.plays
  offers : k'.offers = k.offers

theorem Counter.Sought.refl (k : Counter) : k.Sought k := ⟨rfl, rfl, rfl, rfl⟩
theorem Counter.Sought.trans {k l m : Counter} (h : k.Sought l) (g : l.Sought m) : k.Sought m :=
  ⟨g.holding.trans h.holding, g.nextNumber.trans h.nextNumber, g.plays.trans h.plays, g.offers.trans h.offers⟩

/-- A change of the counter that keeps the booth report's fields leaves the report's due mark (R180). -/
theorem modCounter_of_holding (c : Card) (f : Counter → Counter) (h : (f c.counter).holding = c.counter.holding) :
    c.modCounter f = { c with counter := f c.counter } := by
  simp [Card.modCounter, Card.noteBooth, Card.boothReportFields, Counter.countIn, Counter.freePlaces, h]

/-- What the search for a page can change of the card. -/
def Card.Sought (c d : Card) : Prop :=
  ∃ k b o q, d = { c with counter := k, bus := b, outbox := o, seekDue := q } ∧ c.counter.Sought k

theorem Card.Sought.refl (c : Card) : c.Sought c := ⟨_, _, _, _, rfl, .refl _⟩
theorem Card.Sought.trans {c d e : Card} (h : c.Sought d) (g : d.Sought e) : c.Sought e := by
  obtain ⟨k, b, o, q, rfl, hk⟩ := h
  obtain ⟨k', b', o', q', rfl, hk'⟩ := g
  exact ⟨k', b', o', q', rfl, hk.trans hk'⟩

/-- A card that differs from another only where Sought allows. -/
theorem sought_of {c d : Card}
    (h : d = { c with counter := d.counter, bus := d.bus, outbox := d.outbox, seekDue := d.seekDue })
    (hk : c.counter.Sought d.counter) : c.Sought d := ⟨_, _, _, _, h, hk⟩

theorem sought_modCounter (c : Card) (f : Counter → Counter) (h : c.counter.Sought (f c.counter)) :
    c.Sought (c.modCounter f) := by
  rw [modCounter_of_holding c f h.holding]
  exact ⟨_, _, _, _, rfl, h⟩

theorem sought_raise (c : Card) (sh k fs) : c.Sought (c.raise sh k fs) := sought_of rfl ⟨rfl, rfl, rfl, rfl⟩
theorem sought_busForget (c : Card) (f) : c.Sought (c.busForget f) := sought_of rfl (.refl _)
theorem sought_modWaiting (c : Card) (b : Bool) : c.Sought (c.modCounter (fun k => { k with waiting := b })) :=
  sought_modCounter c _ ⟨rfl, rfl, rfl, rfl⟩

theorem sought_busDone (c : Card) (a) : c.Sought (c.busDone a) := sought_of rfl (.refl _)
theorem sought_memoryFault (c : Card) (w p i a) : c.Sought (c.memoryFault w p i a) := sought_of rfl (.refl _)
theorem sought_found (c : Card) (i : Nat) :
    c.Sought (c.modCounter (fun k => { k with lastPage := i, waiting := false })) :=
  sought_modCounter c _ ⟨rfl, rfl, rfl, rfl⟩
theorem sought_current (c : Card) (p : Option CurrentPage) :
    c.Sought (c.modCounter (fun k => { k with current := p })) := sought_modCounter c _ ⟨rfl, rfl, rfl, rfl⟩
theorem sought_publish (c : Card) (p : Publication) : c.Sought (c.publish p) := sought_of rfl (.refl _)
theorem sought_answerPage (c : Card) (page : Nat) (g : U32) (r : PageResult) : c.Sought (c.answerPage page g r) :=
  (sought_modCounter c _ ⟨rfl, rfl, rfl, rfl⟩).trans (sought_publish _ _)

theorem sought_pageFull (c : Card) (m : Mem) (h : Header) (page : Nat) (g : U32) (l : Locator) (a b : Option U32) :
    c.Sought (c.pageFull m h page g l a b) := by
  unfold Card.pageFull
  exact ((sought_answerPage c page g .full).trans (sought_raise _ _ _ _)).trans (sought_current _ _)

theorem sought_pageWriteFault (c : Card) (page : Nat) (g : U32) (i : FaultItem) (a : Nat) :
    c.Sought (c.pageWriteFault page g i a) := by
  unfold Card.pageWriteFault Card.forgetPageWrites
  simp only
  refine Card.Sought.trans (d := Card.modCounter _ _) ?_ (sought_of rfl (.refl _))
  exact (((sought_busForget c _).trans (sought_memoryFault _ true logPlace i a)).trans
    (sought_answerPage _ page g .writeFault)).trans (sought_modCounter _ _ ⟨rfl, rfl, rfl, rfl⟩)

theorem sought_takeFreshPage (c : Card) (h : Header) (i : Nat) (o : PageOffer) :
    c.Sought (c.takeFreshPage h i o).1 := by
  unfold Card.takeFreshPage
  simp only
  split
  · exact sought_pageWriteFault _ _ _ _ _
  · split
    · exact (sought_publish _ _).trans (sought_pageWriteFault _ _ _ _ _)
    · exact ((sought_busForget c _).trans (sought_current _ _)).trans (sought_publish _ _)

theorem sought_considerPage (c : Card) (m : Mem) (h : Header) (i : Nat) : c.Sought (c.considerPage m h i).1 := by
  unfold Card.considerPage
  split
  · exact .refl c
  · split
    · exact .refl c
    · split
      · exact sought_answerPage _ _ _ _
      · simp only
        have h1 := sought_busDone c (.fillRead (Fin.ofNat 8 i))
        generalize c.busDone (.fillRead (Fin.ofNat 8 i)) = c1 at h1 ⊢
        split
        · exact h1.trans (sought_memoryFault _ _ _ _ _)
        · have h2 := h1.trans (sought_found c1 i)
          generalize c1.modCounter (fun k => { k with lastPage := i, waiting := false }) = c2 at h2 ⊢
          split
          · exact h2.trans (sought_current _ _)
          · split
            · exact h2.trans (sought_pageFull _ _ _ _ _ _ _ _)
            · exact h2.trans (sought_takeFreshPage _ _ _ _)

theorem sought_seekIn (c : Card) (m : Mem) (h : Header) (is : List Nat) : c.Sought (c.seekIn m h is).1 := by
  induction is generalizing c with
  | nil => exact .refl c
  | cons i t ih =>
    have hi := sought_considerPage c m h i
    unfold Card.seekIn
    generalize c.considerPage m h i = r at hi
    obtain ⟨d, b⟩ := r
    cases b
    · exact Card.Sought.trans hi (ih d)
    · exact hi
    · exact hi

theorem sought_seekPages (c : Card) (m : Mem) (h : Header) (n : Nat) : c.Sought (c.seekPages m h n).1 := by
  induction n generalizing c with
  | zero => exact .refl c
  | succ n ih =>
    have hi := sought_seekIn c m h c.counter.seekOrder
    unfold Card.seekPages
    generalize c.seekIn m h c.counter.seekOrder = r at hi
    obtain ⟨d, b⟩ := r
    cases b
    · exact hi
    · exact hi
    · exact Card.Sought.trans hi (ih d)

theorem sought_seekPage (c : Card) (m : Mem) : c.Sought (c.seekPage m) := by
  unfold Card.seekPage
  split
  · exact .refl c
  · rename_i h _
    split
    · have hi := sought_seekPages c m h (Config.logPages + 1)
      generalize c.seekPages m h (Config.logPages + 1) = r at hi
      obtain ⟨d, b⟩ := r
      cases b
      · simp only
        split
        · exact hi
        · exact Card.Sought.trans hi ((sought_raise _ _ _ _).trans (sought_modWaiting _ _))
      · exact hi
    · exact .refl c

/-- What the search for a page at the end of a step can change; where none is due, nothing. -/
theorem seekIfDue_spec (c : Card) (m : Mem) :
    ∃ k b o, c.seekIfDue m = { c with counter := k, bus := b, outbox := o, seekDue := false } ∧ c.counter.Sought k ∧
      (c.seekDue = false → k = c.counter ∧ b = c.bus ∧ o = c.outbox) := by
  unfold Card.seekIfDue
  split
  · obtain ⟨k, b, o, q, hk, hs⟩ := sought_seekPage c m
    exact ⟨k, b, o, by rw [hk], hs, fun hf => by simp_all⟩
  · rename_i hd
    refine ⟨c.counter, c.bus, c.outbox, ?_, .refl _, fun _ => ⟨rfl, rfl, rfl⟩⟩
    cases c
    simp_all

/-- What the end of a step can change of a state. -/
structure Finished (s t : State) : Prop where
  pending : t.pending = s.pending
  powered : t.powered = s.powered
  window : ∃ a, t.window = { s.window with attention := a }
  mem : Mem.wf s.mem → Mem.wf t.mem
  fits : s.detailsFit → t.detailsFit
  card : ∃ q k b d e,
    t.card = { s.card with
      screens := q, counter := k, bus := b, permitDue := d, boothDue := e, outbox := [], seekDue := false } ∧
      (∀ sc, ∃ y, (s.card.scr sc).sound.SameButTarget y ∧ q.get sc = { s.card.scr sc with sound := y }) ∧
      s.card.counter.Sought k ∧ (s.card.seekDue = false → k = s.card.counter)

/-- The end of a step: what it hands the scanner is published, and beside that only the fader targets, the counter's
pages, the tries on the bus and the due marks can change. -/
theorem finish_spec (s : State) : Finished s s.finish := by
  obtain ⟨q, hq, hs⟩ := settleTargets_spec s.card
  obtain ⟨k, b, o, hk, hc, hn⟩ := seekIfDue_spec s.card.settleTargets s.mem
  have p := published_publishAll { s with card := s.card.settleTargets.seekIfDue s.mem }
  obtain ⟨b', d', e', hcard⟩ := p.card
  refine ⟨p.pending, p.powered, p.window, p.mem, p.fits, q, k, b', d', e', ?_, hs, ?_, fun h => ?_⟩
  · unfold State.finish
    rw [hcard]
    simp only
    rw [hk, hq]
  · simpa [hq] using hc
  · have := hn (by simpa [hq] using h)
    simpa [hq] using this.1

section
variable (s : State)

theorem finish_detailsFit (h : s.detailsFit) : s.finish.detailsFit := (finish_spec s).fits h
@[simp] theorem finish_pending : s.finish.pending = s.pending := (finish_spec s).pending
@[simp] theorem finish_powered : s.finish.powered = s.powered := (finish_spec s).powered
@[simp] theorem finish_boothBase : s.finish.window.boothBase = s.window.boothBase := by
  obtain ⟨a, h⟩ := (finish_spec s).window; rw [h]
@[simp] theorem finish_enables : s.finish.window.enables = s.window.enables := by
  obtain ⟨a, h⟩ := (finish_spec s).window; rw [h]
@[simp] theorem finish_runRequest : s.finish.window.runRequest = s.window.runRequest := by
  obtain ⟨a, h⟩ := (finish_spec s).window; rw [h]
@[simp] theorem finish_faultCode : s.finish.window.faultCode = s.window.faultCode := by
  obtain ⟨a, h⟩ := (finish_spec s).window; rw [h]
@[simp] theorem finish_faultDetail : s.finish.window.faultDetail = s.window.faultDetail := by
  obtain ⟨a, h⟩ := (finish_spec s).window; rw [h]
@[simp] theorem finish_readData : s.finish.window.readData = s.window.readData := by
  obtain ⟨a, h⟩ := (finish_spec s).window; rw [h]
@[simp] theorem finish_engine : s.finish.card.engine = s.card.engine := by
  obtain ⟨q, k, b, d, e, h, _⟩ := (finish_spec s).card; rw [h]
@[simp] theorem finish_header : s.finish.card.header = s.card.header := by
  obtain ⟨q, k, b, d, e, h, _⟩ := (finish_spec s).card; rw [h]
@[simp] theorem finish_slots : s.finish.card.slots = s.card.slots := by
  obtain ⟨q, k, b, d, e, h, _⟩ := (finish_spec s).card; rw [h]
@[simp] theorem finish_directory : s.finish.card.directory = s.card.directory := by
  obtain ⟨q, k, b, d, e, h, _⟩ := (finish_spec s).card; rw [h]
@[simp] theorem finish_fetch : s.finish.card.fetch = s.card.fetch := by
  obtain ⟨q, k, b, d, e, h, _⟩ := (finish_spec s).card; rw [h]
@[simp] theorem finish_permits : s.finish.card.permits = s.card.permits := by
  obtain ⟨q, k, b, d, e, h, _⟩ := (finish_spec s).card; rw [h]
@[simp] theorem finish_pool : s.finish.card.pool = s.card.pool := by
  obtain ⟨q, k, b, d, e, h, _⟩ := (finish_spec s).card; rw [h]
@[simp] theorem finish_auto : s.finish.card.auto = s.card.auto := by
  obtain ⟨q, k, b, d, e, h, _⟩ := (finish_spec s).card; rw [h]
@[simp] theorem finish_owedPermits : s.finish.card.owedPermits = s.card.owedPermits := by
  obtain ⟨q, k, b, d, e, h, _⟩ := (finish_spec s).card; rw [h]
@[simp] theorem finish_owedLost : s.finish.card.owedLost = s.card.owedLost := by
  obtain ⟨q, k, b, d, e, h, _⟩ := (finish_spec s).card; rw [h]
@[simp] theorem finish_outbox : s.finish.card.outbox = [] := by
  obtain ⟨q, k, b, d, e, h, _⟩ := (finish_spec s).card; rw [h]
@[simp] theorem finish_seekDue : s.finish.card.seekDue = false := by
  obtain ⟨q, k, b, d, e, h, _⟩ := (finish_spec s).card; rw [h]
@[simp] theorem finish_holding : s.finish.card.counter.holding = s.card.counter.holding := by
  obtain ⟨q, k, b, d, e, h, _, hk, _⟩ := (finish_spec s).card; rw [h]; exact hk.holding
@[simp] theorem finish_nextNumber : s.finish.card.counter.nextNumber = s.card.counter.nextNumber := by
  obtain ⟨q, k, b, d, e, h, _, hk, _⟩ := (finish_spec s).card; rw [h]; exact hk.nextNumber
@[simp] theorem finish_plays : s.finish.card.counter.plays = s.card.counter.plays := by
  obtain ⟨q, k, b, d, e, h, _, hk, _⟩ := (finish_spec s).card; rw [h]; exact hk.plays
theorem finish_counter (h : s.card.seekDue = false) : s.finish.card.counter = s.card.counter := by
  obtain ⟨q, k, b, d, e, hc, _, _, hk⟩ := (finish_spec s).card; rw [hc]; exact hk h

/-- Of a screen, the end of a step changes the fader's target and step alone. -/
theorem finish_scr (sc : Idx4) :
    ∃ y, (s.card.scr sc).sound.SameButTarget y ∧ s.finish.card.scr sc = { s.card.scr sc with sound := y } := by
  obtain ⟨q, k, b, d, e, h, hs, _⟩ := (finish_spec s).card
  rw [h]
  exact hs sc

@[simp] theorem finish_seq (sc : Idx4) : (s.finish.card.scr sc).seq = (s.card.scr sc).seq := by
  obtain ⟨y, _, h⟩ := finish_scr s sc; rw [h]
@[simp] theorem finish_port (sc : Idx4) : (s.finish.card.scr sc).port = (s.card.scr sc).port := by
  obtain ⟨y, _, h⟩ := finish_scr s sc; rw [h]
@[simp] theorem finish_text (sc : Idx4) : (s.finish.card.scr sc).text = (s.card.scr sc).text := by
  obtain ⟨y, _, h⟩ := finish_scr s sc; rw [h]
@[simp] theorem finish_captions (sc : Idx4) : (s.finish.card.scr sc).captions = (s.card.scr sc).captions := by
  obtain ⟨y, _, h⟩ := finish_scr s sc; rw [h]
@[simp] theorem finish_tallies (sc : Idx4) : (s.finish.card.scr sc).tallies = (s.card.scr sc).tallies := by
  obtain ⟨y, _, h⟩ := finish_scr s sc; rw [h]
@[simp] theorem finish_textKeys (sc : Idx4) : (s.finish.card.scr sc).textKeys = (s.card.scr sc).textKeys := by
  obtain ⟨y, _, h⟩ := finish_scr s sc; rw [h]
@[simp] theorem finish_pictureQueue (sc : Idx4) :
    (s.finish.card.scr sc).pictureQueue = (s.card.scr sc).pictureQueue := by
  obtain ⟨y, _, h⟩ := finish_scr s sc; rw [h]
@[simp] theorem finish_soundQueue (sc : Idx4) : (s.finish.card.scr sc).soundQueue = (s.card.scr sc).soundQueue := by
  obtain ⟨y, _, h⟩ := finish_scr s sc; rw [h]
@[simp] theorem finish_currentFeeds (sc : Idx4) :
    (s.finish.card.scr sc).currentFeeds = (s.card.scr sc).currentFeeds := by
  obtain ⟨y, _, h⟩ := finish_scr s sc; rw [h]
@[simp] theorem finish_armedFeeds (sc : Idx4) : (s.finish.card.scr sc).armedFeeds = (s.card.scr sc).armedFeeds := by
  obtain ⟨y, _, h⟩ := finish_scr s sc; rw [h]
theorem finish_sound (sc : Idx4) : (s.card.scr sc).sound.SameButTarget (s.finish.card.scr sc).sound := by
  obtain ⟨y, hy, h⟩ := finish_scr s sc; rw [h]; exact hy

end

end Sys2Proof.Machine
end

