-- ==== Sys2Proof/Laws/View.lean ====
section
/-! SUPPORT. What the blocks leave alone: the view of the card without one screen's sequencer, and one lemma per
operation of the blocks saying that it keeps the view. -/
namespace Sys2Proof.Machine

/-- What an operation of a screen's blocks leaves alone: the engine state, the header copy, the automation unit, the
booth clock, and the sequencers of the other screens. -/
structure View where
  engine : EngineState
  header : Option Header
  auto : Automation
  clock : U64
  clockSet : Bool
  seqs : Quad Sequencer
  deriving DecidableEq, Repr

/-- The view of a card without the sequencer of a screen. -/
def Card.view (sc : Idx4) (c : Card) : View :=
  { engine := c.engine, header := c.header, auto := c.auto, clock := c.permits.clock, clockSet := c.permits.clockSet
    seqs := (c.screens.map (fun x => x.seq)).set sc {} }

theorem view_engine {c d : Card} {sc : Idx4} (h : c.view sc = d.view sc) : c.engine = d.engine := congrArg View.engine h
theorem view_header {c d : Card} {sc : Idx4} (h : c.view sc = d.view sc) : c.header = d.header := congrArg View.header h
theorem view_auto {c d : Card} {sc : Idx4} (h : c.view sc = d.view sc) : c.auto = d.auto := congrArg View.auto h
theorem view_clock {c d : Card} {sc : Idx4} (h : c.view sc = d.view sc) : c.permits.clock = d.permits.clock :=
  congrArg View.clock h
theorem view_clockSet {c d : Card} {sc : Idx4} (h : c.view sc = d.view sc) :
    c.permits.clockSet = d.permits.clockSet := congrArg View.clockSet h
theorem view_seq {c d : Card} {sc sd : Idx4} (h : c.view sc = d.view sc) (hn : sd ≠ sc) :
    (c.scr sd).seq = (d.scr sd).seq := by
  have := congrArg (fun v => v.seqs.get sd) h
  simpa [Card.view, Quad.get_set_ne _ _ hn, Card.scr] using this

variable (c : Card) (sc sd : Idx4)

/-! ## Updates -/

@[simp] theorem modScr_view_self (f : Screen → Screen) : (c.modScr sc f).view sc = c.view sc := by
  cases sc <;> rfl

theorem modScr_view (f : Screen → Screen) (h : ∀ x, (f x).seq = x.seq) : (c.modScr sd f).view sc = c.view sc := by
  unfold Card.view
  simp only [Card.modScr]
  rw [Quad.map_modify _ _ _ _ (h _)]

@[simp] theorem modSeq_view (f) : (c.modSeq sc f).view sc = c.view sc := modScr_view_self _ _ _
@[simp] theorem modPort_view (f) : (c.modPort sd f).view sc = c.view sc := modScr_view _ _ _ _ fun _ => rfl
@[simp] theorem modSound_view (f) : (c.modSound sd f).view sc = c.view sc := modScr_view _ _ _ _ fun _ => rfl
@[simp] theorem modText_view (f) : (c.modText sd f).view sc = c.view sc := modScr_view _ _ _ _ fun _ => rfl
@[simp] theorem publish_view (p) : (c.publish p).view sc = c.view sc := rfl
@[simp] theorem raise_view (sh k fs) : (c.raise sh k fs).view sc = c.view sc := rfl
@[simp] theorem answer_view (sh n r fs) : (c.answer sh n r fs).view sc = c.view sc := rfl
@[simp] theorem memoryFault_view (w p i a) : (c.memoryFault w p i a).view sc = c.view sc := rfl
@[simp] theorem busDone_view (a) : (c.busDone a).view sc = c.view sc := rfl
@[simp] theorem busFail_view (a) : (c.busFail a).view sc = c.view sc := rfl
@[simp] theorem modCounter_view (f) : (c.modCounter f).view sc = c.view sc := rfl
@[simp] theorem modSlot_view (i f) : (c.modSlot i f).view sc = c.view sc := rfl
@[simp] theorem modEntryOf_view (i f) : (c.modEntryOf i f).view sc = c.view sc := rfl
@[simp] theorem dropEntryOf_view (i) : (c.dropEntryOf i).view sc = c.view sc := rfl
@[simp] theorem setSeekDue_view (b) : ({ c with seekDue := b } : Card).view sc = c.view sc := rfl
@[simp] theorem setFetch_view (f) : ({ c with fetch := f } : Card).view sc = c.view sc := rfl
@[simp] theorem setPool_view (p) : ({ c with pool := p } : Card).view sc = c.view sc := rfl
@[simp] theorem setDirectory_view (d) : ({ c with directory := d } : Card).view sc = c.view sc := rfl
@[simp] theorem setBus_view (b) : ({ c with bus := b } : Card).view sc = c.view sc := rfl
@[simp] theorem setPermitDue_view (b) : ({ c with permitDue := b } : Card).view sc = c.view sc := rfl
@[simp] theorem setBoothDue_view (b) : ({ c with boothDue := b } : Card).view sc = c.view sc := rfl
@[simp] theorem noteBooth_view (d : Card) : (c.noteBooth d).view sc = d.view sc := rfl
@[simp] theorem busForget_view (f) : (c.busForget f).view sc = c.view sc := rfl

/-- A fold of operations that each keep the view keeps it. -/
theorem foldl_view {α : Type} (l : List α) (f : Card → α → Card) (h : ∀ c x, (f c x).view sc = c.view sc) (c : Card) :
    (l.foldl f c).view sc = c.view sc := by
  induction l generalizing c with
  | nil => rfl
  | cons x t ih => exact (ih (f c x)).trans (h c x)

/-! ## Notices, faults and the permit unit -/

@[simp] theorem setState_view (st) : (c.setState sc st).view sc = c.view sc := by
  unfold Card.setState; split <;> simp
@[simp] theorem setCurrent_view (e) : (c.setCurrent sc e).view sc = c.view sc := by
  unfold Card.setCurrent; split <;> simp
@[simp] theorem tallyFault_view (f) : (c.tallyFault sd f).view sc = c.view sc := modScr_view _ _ _ _ fun _ => rfl
@[simp] theorem fault_view (f) : (c.fault sc f).view sc = c.view sc := by
  unfold Card.fault
  simp only
  split
  · rfl
  · split
    · split <;> simp
    · simp
    · simp
@[simp] theorem reportTallies_view (e) : (c.reportTallies sd e).view sc = c.view sc := by
  unfold Card.reportTallies
  simp only
  split
  · rfl
  · rw [modScr_view]
    · rfl
    · intro _; rfl
@[simp] theorem permitChanged_view (i p k n) : (c.permitChanged i p k n).view sc = c.view sc := rfl
@[simp] theorem setPlace_view (i p) : (c.setPlace i p).view sc = c.view sc := rfl
@[simp] theorem putPermit_view (i p) : (c.putPermit i p).view sc = c.view sc := rfl
@[simp] theorem storePermit_view (i p) : (c.storePermit i p).view sc = c.view sc := putPermit_view _ _ _ _
@[simp] theorem clearPermit_view (i) : (c.clearPermit i).view sc = c.view sc := rfl
@[simp] theorem reserve_view (i p) : (c.reserve i p).view sc = c.view sc := rfl
@[simp] theorem retire_view (i p) : (c.retire i p).view sc = c.view sc := by unfold Card.retire; split <;> simp
theorem onPermit_view (i) {put : Card → Nat → Permit → Card} (f) (h : ∀ n p, (put c n p).view sc = c.view sc) :
    (c.onPermit i put f).view sc = c.view sc := by
  unfold Card.onPermit
  split
  · rfl
  · rw [retire_view, h]
@[simp] theorem release_view (i) : (c.release i).view sc = c.view sc := onPermit_view _ _ _ _ (putPermit_view c sc)
@[simp] theorem creditPermit_view (i) : (c.creditPermit i).view sc = c.view sc :=
  onPermit_view _ _ _ _ (storePermit_view c sc)
@[simp] theorem endAfterCredit_view (i) : (c.endAfterCredit i).view sc = c.view sc :=
  onPermit_view _ _ _ _ (setPlace_view c sc)
@[simp] theorem permitAdd_view (n b) : (c.permitAdd n b).view sc = c.view sc := by
  unfold Card.permitAdd
  repeat' split
  all_goals simp
@[simp] theorem permitRemove_view (n i) : (c.permitRemove n i).view sc = c.view sc := by
  unfold Card.permitRemove
  repeat' split
  all_goals simp
@[simp] theorem wipeOne_view (x) : (c.wipeOne x).view sc = c.view sc := by
  unfold Card.wipeOne
  repeat' split
  all_goals simp
@[simp] theorem permitWipe_view (n) : (c.permitWipe n).view sc = c.view sc := by
  unfold Card.permitWipe
  simp [foldl_view sc _ Card.wipeOne (fun c x => wipeOne_view c sc x)]
@[simp] theorem permitReport_view : (c.permitReport).view sc = c.view sc := by
  unfold Card.permitReport; split <;> rfl
@[simp] theorem raiseOwedPermits_view : (c.raiseOwedPermits).view sc = c.view sc := by
  have h : ∀ (l : List OwedPermitChange) (d : Card), (l.foldl (fun (c : Card) (o : OwedPermitChange) =>
      c.raise .key .permitChange [(4, o.permit.toNat), (1, o.place), (1, o.change), (4, o.counted)]) d).view sc =
      d.view sc := by
    intro l
    induction l with
    | nil => intro d; rfl
    | cons x t ih => intro d; exact ih _
  exact h _ _
@[simp] theorem raiseOwedLost_view : (c.raiseOwedLost).view sc = c.view sc := by
  unfold Card.raiseOwedLost; split <;> rfl

/-! ## The showing counter -/

@[simp] theorem createRecord_view (e t p) : (c.createRecord sd e t p).view sc = c.view sc := rfl
@[simp] theorem removeRecord_view (e) : (c.removeRecord sd e).view sc = c.view sc := rfl
@[simp] theorem openRecord_view (e t p) : (c.openRecord sd e t p).view sc = c.view sc := by
  unfold Card.openRecord; split <;> rfl
@[simp] theorem makeCredit_view (e p t) : (c.makeCredit sd e p t).view sc = c.view sc := by
  simp [Card.makeCredit]
@[simp] theorem deliveredFrame_view (f) : (c.deliveredFrame sd f).view sc = c.view sc := by
  unfold Card.deliveredFrame
  simp only
  repeat' split
  all_goals simp
@[simp] theorem countSoundFault_view (e) : (c.countSoundFault sd e).view sc = c.view sc := by
  unfold Card.countSoundFault; split <;> simp
@[simp] theorem closeRecord_view (e k) : (c.closeRecord sd e k).view sc = c.view sc := by
  unfold Card.closeRecord
  exact (show _ = (c.modPort sd fun p => { p with delivered := 0, lost := 0, faulted := 0 }).view sc from rfl).trans
    (modPort_view _ _ _ _)
@[simp] theorem answerPage_view (p g r) : (c.answerPage p g r).view sc = c.view sc := rfl
theorem Card.Sought.view {c d : Card} (h : c.Sought d) : d.view sc = c.view sc := by
  obtain ⟨k, b, o, q, rfl, _⟩ := h; rfl
@[simp] theorem pageFull_view (m h p g l a b) : (c.pageFull m h p g l a b).view sc = c.view sc :=
  (sought_pageFull c m h p g l a b).view sc
@[simp] theorem forgetPageWrites_view (p) : (c.forgetPageWrites p).view sc = c.view sc := rfl
@[simp] theorem pageWriteFault_view (p g i a) : (c.pageWriteFault p g i a).view sc = c.view sc :=
  (sought_pageWriteFault c p g i a).view sc
@[simp] theorem seekIfDue_view (m) : (c.seekIfDue m).view sc = c.view sc := by
  obtain ⟨k, b, o, h, _⟩ := seekIfDue_spec c m; rw [h]; rfl
@[simp] theorem readLogTable_view (m h) : (c.readLogTable m h).view sc = c.view sc := by
  unfold Card.readLogTable
  simp only
  repeat' split
  all_goals simp
@[simp] theorem beginRecordWrite_view : (c.beginRecordWrite).view sc = c.view sc := by
  unfold Card.beginRecordWrite
  repeat' split
  all_goals simp
@[simp] theorem endRecordWrite_view (m) : (c.endRecordWrite m).view sc = c.view sc := by
  unfold Card.endRecordWrite
  simp only
  repeat' split
  all_goals simp
@[simp] theorem boothReport_view : (c.boothReport).view sc = c.view sc := by
  unfold Card.boothReport; split <;> rfl

/-! ## Sound -/

@[simp] theorem settleTarget_view : (c.settleTarget sd).view sc = c.view sc := by simp [Card.settleTarget]
@[simp] theorem settleTargets_view : (c.settleTargets).view sc = c.view sc :=
  foldl_view sc _ _ (fun c x => settleTarget_view c sc x) c
@[simp] theorem setLevel_view (l f) : (c.setLevel sd l f).view sc = c.view sc := by simp [Card.setLevel]
@[simp] theorem muteFade_view (b) : (c.muteFade sd b).view sc = c.view sc := by simp [Card.muteFade]
@[simp] theorem levelCue_view (l f) : (c.levelCue sd l f).view sc = c.view sc := by simp [Card.levelCue]
@[simp] theorem faults_view (f n) : (c.faults sc f n).view sc = c.view sc := by
  induction n generalizing c with
  | zero => rfl
  | succ n ih => simp [Card.faults, ih]
@[simp] theorem samplePeriod_view : (c.samplePeriod sc).view sc = c.view sc := by simp [Card.samplePeriod]

/-! ## Text -/

@[simp] theorem sweep_view : (c.sweep sd).view sc = c.view sc := rfl
@[simp] theorem cueDrop_view (k e r f i) : (c.cueDrop sc k e r f i).view sc = c.view sc := by simp [Card.cueDrop]
@[simp] theorem textFault_view (k e r f i) : (c.textFault sc k e r f i).view sc = c.view sc := by simp [Card.textFault]
@[simp] theorem takeCue_view (e r b) : (c.takeCue sc e r b).view sc = c.view sc := by
  unfold Card.takeCue
  simp only
  repeat' split
  all_goals simp
@[simp] theorem textItem_view (e r d s i) : (c.textItem sc e r d s i).view sc = c.view sc := by
  unfold Card.textItem
  simp only
  repeat' split
  all_goals simp
@[simp] theorem automationItem_view (e r d i) : (c.automationItem sc e r d i).view sc = c.view sc := by
  unfold Card.automationItem
  simp only
  repeat' split
  all_goals simp
@[simp] theorem textUnitTaken_view (e r d f k p) : (c.textUnitTaken sc e r d f k p).view sc = c.view sc := by
  unfold Card.textUnitTaken
  repeat' split
  · simp
  · exact foldl_view sc _ _ (fun c x => textItem_view c sc _ _ _ _ x) c
  · simp
  · exact foldl_view sc _ _ (fun c x => automationItem_view c sc _ _ _ x) c
@[simp] theorem hideCues_view (f) : (c.hideCues sd f).view sc = c.view sc := by simp [Card.hideCues]
@[simp] theorem showCues_view (r f) : (c.showCues sd r f).view sc = c.view sc := by simp [Card.showCues]
@[simp] theorem unqueue_view (n) : (c.unqueue sd n).view sc = c.view sc := by
  unfold Card.unqueue
  simp only
  split
  · exact modText_view _ _ _ _
  · exact (setPool_view _ _ _).trans (modText_view _ _ _ _)
@[simp] theorem overrunCues_view (r f) : (c.overrunCues sc r f).view sc = c.view sc := by
  unfold Card.overrunCues
  simp only
  exact foldl_view sc _ _ (fun c x => (cueDrop_view _ _ _ _ _ _ _).trans (unqueue_view _ _ _ _)) c
@[simp] theorem presentCues_view (r f) : (c.presentCues sc r f).1.view sc = c.view sc := by
  simp only [Card.presentCues, foldl_view sc _ (fun (c : Card) (x : Nat × AutoCue) => c.unqueue sc x.1)
    (fun c x => unqueue_view c sc sc x.1),
    overrunCues_view, showCues_view, sweep_view, hideCues_view]
@[simp] theorem applySelection_view : (c.applySelection sd).view sc = c.view sc := by
  unfold Card.applySelection
  split <;> simp
@[simp] theorem releaseReelCues_view (r) : (c.releaseReelCues sd r).view sc = c.view sc := by
  simp [Card.releaseReelCues]
@[simp] theorem releaseCues_view : (c.releaseCues sd).view sc = c.view sc := by simp [Card.releaseCues]
@[simp] theorem buildCaptions_view (b) : (c.buildCaptions sd b).view sc = c.view sc :=
  modScr_view _ _ _ _ fun _ => rfl

/-! ## Intake -/

@[simp] theorem modFeeds_view (f) : (c.modFeeds sd f).view sc = c.view sc := by
  unfold Card.modFeeds
  refine modScr_view _ _ _ _ fun x => ?_
  split <;> rfl
@[simp] theorem jumpFeeds_view (r) : (c.jumpFeeds sd r).view sc = c.view sc := modFeeds_view _ _ _ _
@[simp] theorem reelEndFeeds_view (r) : (c.reelEndFeeds sd r).view sc = c.view sc := modFeeds_view _ _ _ _
@[simp] theorem skipDeclined_view (t) : (c.skipDeclined sd t).view sc = c.view sc := modFeeds_view _ _ _ _
@[simp] theorem setFeed_view (e k v) : (c.setFeed sd e k v).view sc = c.view sc := by
  unfold Card.setFeed
  refine modScr_view _ _ _ _ fun x => ?_
  split <;> rfl
@[simp] theorem answerSlot_view (i g r n) : (c.answerSlot i g r n).view sc = c.view sc := rfl
@[simp] theorem consume_view (i g) : (c.consume sd i g).view sc = c.view sc := by
  unfold Card.consume
  simp only
  repeat' split
  all_goals simp
@[simp] theorem markReleased_view (r) : (c.markReleased r).view sc = c.view sc := rfl
@[simp] theorem releaseRefs_view (e) : (c.releaseRefs sd e).view sc = c.view sc := by
  unfold Card.releaseRefs
  simp only
  rw [foldl_view sc _ _ (fun c (r : Ref) => consume_view c sc sd _ _),
    foldl_view sc _ _ (fun c x => markReleased_view c sc _),
    modScr_view]
  intro x; rfl
@[simp] theorem withdraw_view (i g) : (c.withdraw i g).view sc = c.view sc := by
  unfold Card.withdraw
  simp only [modSlot_view, dropEntryOf_view]
  generalize Idx4.all = l
  revert c
  induction l with
  | nil => intro c; rfl
  | cons x t ih => intro c; exact (ih _).trans (modScr_view _ _ _ _ fun _ => rfl)
@[simp] theorem meetOffer_view (m h i g) : (c.meetOffer m h i g).view sc = c.view sc := by
  unfold Card.meetOffer
  simp only
  split <;> rfl
@[simp] theorem compareOffer_view (m h i) : (c.compareOffer m h i).view sc = c.view sc := by
  unfold Card.compareOffer
  simp only
  repeat' split
  all_goals simp
@[simp] theorem refreshSlot_view (m h i) : (c.refreshSlot m h i).view sc = c.view sc := by
  unfold Card.refreshSlot
  simp only
  repeat' split
  all_goals simp
@[simp] theorem refreshDirectory_view (m h) : (c.refreshDirectory m h).view sc = c.view sc :=
  foldl_view sc _ _ (fun c x => by simp only [refreshSlot_view]) c
@[simp] theorem addTextKey_view (e r t k) : (c.addTextKey sd e r t k).view sc = c.view sc := by
  unfold Card.addTextKey
  simp only [raise_view]
  exact modScr_view _ _ _ _ fun _ => rfl
@[simp] theorem wantKey_view (e k) : (c.wantKey e k).view sc = c.view sc := by
  unfold Card.wantKey
  simp only
  split <;> simp
@[simp] theorem judgeAtTick_view (e) : (c.judgeAtTick e).view sc = c.view sc := by
  unfold Card.judgeAtTick
  repeat' split
  all_goals simp
@[simp] theorem settleFreshKeys_view : (c.settleFreshKeys).view sc = c.view sc := by
  unfold Card.settleFreshKeys Card.view
  simp only [Quad.map_map]
@[simp] theorem judgeAll_view : (c.judgeAll).view sc = c.view sc :=
  (foldl_view sc _ _ (fun c x => judgeAtTick_view c sc x) _).trans (settleFreshKeys_view c sc)
@[simp] theorem startFetch_view (h) : (c.startFetch h).view sc = c.view sc := by
  unfold Card.startFetch
  split
  · simp only
    split <;> rfl
  · rfl
@[simp] theorem answerDuplicates_view (i h) : (c.answerDuplicates i h).view sc = c.view sc :=
  foldl_view sc _ _ (fun c x => by simp only [answerSlot_view]) c
@[simp] theorem takeUnits_view (e k t f us) : (c.takeUnits e k t f us).view sc = c.view sc := by
  unfold Card.takeUnits
  simp only
  split
  · simp only [answerSlot_view, setFeed_view]
    exact modScr_view _ _ _ _ fun x => by split <;> rfl
  · simp only [modSlot_view, modEntryOf_view, setFeed_view]
    exact modScr_view _ _ _ _ fun x => by split <;> rfl
theorem takeTextUnit_view (e : DirEntry) (k : Candidate) (d : Nat) (bs : List Byte) (a : Card × Nat × Bool)
    (u : UnitEntry) : (Card.takeTextUnit e k d bs a u).1.view k.sc = a.1.view k.sc := by
  unfold Card.takeTextUnit
  simp only
  split
  · rfl
  · simp only
    generalize (if e.header.isSealed = true then _ else _) = plain
    split <;> simp
theorem takeTextUnits_view (e : DirEntry) (k : Candidate) (t f us bs) :
    (c.takeTextUnits e k t f us bs).view k.sc = c.view k.sc := by
  unfold Card.takeTextUnits
  simp only [answerSlot_view, setFeed_view]
  have h : ∀ (us : List UnitEntry) (a : Card × Nat × Bool),
      ((us.foldl (Card.takeTextUnit e k ((t.reels.map (·.duration)).getD k.reel 0) bs) a).1).view k.sc =
        a.1.view k.sc := by
    intro us
    induction us with
    | nil => intro a; rfl
    | cons u t ih => intro a; exact (ih _).trans (takeTextUnit_view e k _ bs a u)
  exact h us _
theorem takeChunk_view (e : DirEntry) (k : Candidate) (t f bs) :
    (c.takeChunk e k t f bs).view k.sc = c.view k.sc := by
  unfold Card.takeChunk
  split
  · simp
  · simp only [answerDuplicates_view]
    split
    · exact takeTextUnits_view _ _ _ _ _ _ _
    · simp

/-! ## Units at play and the picture port -/

@[simp] theorem setStaged_view (r g) : (c.setStaged sd r g).view sc = c.view sc := by
  unfold Card.setStaged; split <;> simp
@[simp] theorem startUnitRead_view (m h r) : (c.startUnitRead m h sd r).view sc = c.view sc := by
  unfold Card.startUnitRead
  simp only
  repeat' split
  all_goals simp
@[simp] theorem endSoundRead_view (m h) : (c.endSoundRead m h sd).view sc = c.view sc := by
  unfold Card.endSoundRead; split <;> simp
@[simp] theorem endPictureRead_view (m h) : (c.endPictureRead m h sd).view sc = c.view sc := by
  unfold Card.endPictureRead; split <;> simp
theorem popPicture_view :
    (c.modScr sd fun x => { x with pictureQueue := popFrame x.pictureQueue }).view sc = c.view sc :=
  modScr_view _ _ _ _ fun _ => rfl
theorem popSound_view : (c.modScr sd fun x => { x with soundQueue := popFrame x.soundQueue }).view sc = c.view sc :=
  modScr_view _ _ _ _ fun _ => rfl
@[simp] theorem takeHead_view (r) : (c.takeHead sd r).view sc = c.view sc := by
  unfold Card.takeHead
  simp only
  repeat' split
  all_goals simp [popPicture_view, popSound_view]
@[simp] theorem feedSound_view (f) : (c.feedSound sc f).view sc = c.view sc := by
  unfold Card.feedSound
  simp only
  repeat' split
  all_goals simp
@[simp] theorem linkChanged_view (a b k) : (c.linkChanged sd a b k).view sc = c.view sc := rfl
@[simp] theorem linkLost_view : (c.linkLost sc).view sc = c.view sc := by simp [Card.linkLost]
@[simp] theorem linkDown_view (k) : (c.linkDown sc k).view sc = c.view sc := by
  unfold Card.linkDown
  simp only
  split <;> simp
@[simp] theorem linkFound_view : (c.linkFound sd).view sc = c.view sc := by unfold Card.linkFound; split <;> simp
@[simp] theorem linkTrained_view : (c.linkTrained sd).view sc = c.view sc := by unfold Card.linkTrained; split <;> simp
@[simp] theorem trainingFailed_view : (c.trainingFailed sc).view sc = c.view sc := by
  unfold Card.trainingFailed; split <;> simp
@[simp] theorem signalLost_view : (c.signalLost sc).view sc = c.view sc := by unfold Card.signalLost; split <;> simp
@[simp] theorem trainingCount_view : (c.trainingCount sc).view sc = c.view sc := by
  unfold Card.trainingCount; simp only; split <;> simp
@[simp] theorem trainLink_view : (c.trainLink sc).view sc = c.view sc := by unfold Card.trainLink; split <;> simp
@[simp] theorem settleTransfer_view : (c.settleTransfer sc).view sc = c.view sc := by
  unfold Card.settleTransfer
  simp only
  repeat' split
  all_goals simp
@[simp] theorem sendDark_view : (c.sendDark sd).view sc = c.view sc := by unfold Card.sendDark; split <;> simp
@[simp] theorem sendPicture_view (f o) : (c.sendPicture sc f o).view sc = c.view sc := by
  unfold Card.sendPicture
  simp only
  repeat' split
  all_goals simp
@[simp] theorem endDark_view : (c.endDark sd).view sc = c.view sc := by simp [Card.endDark]
@[simp] theorem transferPicture_view (f) : (c.transferPicture sc f).view sc = c.view sc := by
  unfold Card.transferPicture; repeat' split
  all_goals simp
@[simp] theorem projectorTaken_view (n) : (c.projectorTaken sd n).view sc = c.view sc := by
  unfold Card.projectorTaken; simp only; repeat' split
  all_goals simp
@[simp] theorem projectorRefused_view (n) : (c.projectorRefused sd n).view sc = c.view sc := by
  unfold Card.projectorRefused; simp only; repeat' split
  all_goals simp

/-! ## The sequencer -/

@[simp] theorem modListEntry_view (i f) : (c.modListEntry sc i f).view sc = c.view sc := modSeq_view _ _ _
@[simp] theorem setStatus_view (i s) : (c.setStatus sc i s).view sc = c.view sc := modSeq_view _ _ _
@[simp] theorem entryRefused_view (i f) : (c.entryRefused sd i f).view sc = c.view sc := rfl
theorem reserveFor_view {c d : Card} {sc : Idx4} {i : Nat} {t : Title} {p : Option U32}
    (h : c.reserveFor sc i t = .ok (d, p)) : d.view sc = c.view sc := by
  unfold Card.reserveFor at h
  split at h
  · split at h
    · cases h
    · cases h; simp
  · cases h; rfl
@[simp] theorem armTitle_view (i t) : (c.armTitle sc i t).1.view sc = c.view sc := by
  unfold Card.armTitle
  split
  · simp
  · rename_i d p he
    have := reserveFor_view he
    split <;> simp [this]
@[simp] theorem armEntry_view (i) : (c.armEntry sc i).1.view sc = c.view sc := by
  unfold Card.armEntry; split <;> simp
@[simp] theorem armPass_view (n) : (c.armPass sc n).1.view sc = c.view sc := by
  induction n generalizing c with
  | zero => rfl
  | succ n ih =>
    unfold Card.armPass
    simp only
    split
    · rfl
    · split
      · simp [ih]
      · split
        · generalize hd : (c.modSeq sc fun q => { q with nextLook := (c.scr sc).seq.nextLook + 1 }).armEntry sc
              (c.scr sc).seq.nextLook = r
          have hr : r.1.view sc = c.view sc := by rw [← hd]; simp
          obtain ⟨d, b⟩ := r
          cases b
          · simpa [ih] using hr
          · simpa using hr
        · simp [ih]
@[simp] theorem armNext_view : (c.armNext sc).1.view sc = c.view sc := armPass_view _ _ _
@[simp] theorem successorPass_view : (c.successorPass sc).view sc = c.view sc := by
  unfold Card.successorPass; simp
@[simp] theorem passIfDue_view : (c.passIfDue sc).view sc = c.view sc := by
  unfold Card.passIfDue; simp only; split <;> simp
@[simp] theorem dropUnstarted_view (i) : (c.dropUnstarted sc i).view sc = c.view sc := by simp [Card.dropUnstarted]
@[simp] theorem dropArmed_view : (c.dropArmed sc).view sc = c.view sc := by unfold Card.dropArmed; split <;> simp
@[simp] theorem entryEnded_view (i k b) : (c.entryEnded sd i k b).view sc = c.view sc := rfl
@[simp] theorem closeEntry_view (i k) : (c.closeEntry sc i k).view sc = c.view sc := by
  unfold Card.closeEntry
  simp only
  repeat' split
  all_goals simp
@[simp] theorem clearEntry_view (i) : (c.clearEntry sc i).view sc = c.view sc := by simp [Card.clearEntry]
@[simp] theorem endCurrent_view (k) : (c.endCurrent sc k).view sc = c.view sc := by
  unfold Card.endCurrent
  simp only
  repeat' split
  all_goals simp
@[simp] theorem finishScreen_view (k) : (c.finishScreen sc k).view sc = c.view sc := by simp [Card.finishScreen]
@[simp] theorem becomeCurrent_view (j) : (c.becomeCurrent sc j).view sc = c.view sc := by simp [Card.becomeCurrent]
@[simp] theorem moveOn_view : (c.moveOn sc).view sc = c.view sc := by
  unfold Card.moveOn
  simp only
  repeat' split
  all_goals simp
@[simp] theorem endReel_view (r) : (c.endReel sd r).view sc = c.view sc := by simp [Card.endReel]
@[simp] theorem complete_view : (c.complete sc).view sc = c.view sc := by unfold Card.complete; split <;> simp
@[simp] theorem enterStarve_view (p q) : (c.enterStarve sc p q).view sc = c.view sc := by simp [Card.enterStarve]
@[simp] theorem presentTitle_view (i t p) : (c.presentTitle sc i t p).view sc = c.view sc := by
  unfold Card.presentTitle; simp only; split <;> simp
@[simp] theorem playTitle_view (i t p) : (c.playTitle sc i t p).view sc = c.view sc := by
  unfold Card.playTitle; simp only; split <;> simp
@[simp] theorem playInterval_view (i p) : (c.playInterval sc i p).view sc = c.view sc := modSeq_view _ _ _
@[simp] theorem reachMark_view (i b) : (c.reachMark sc i b).view sc = c.view sc := by simp [Card.reachMark]
@[simp] theorem passMark_view (i) : (c.passMark sc i).view sc = c.view sc := by simp [Card.passMark]
@[simp] theorem handleRunning_view (n) : (c.handleRunning sc n).view sc = c.view sc := by
  induction n generalizing c with
  | zero => rfl
  | succ n ih =>
    unfold Card.handleRunning
    simp only
    repeat' split
    all_goals simp [ih]
@[simp] theorem playOn_view : (c.playOn sc).view sc = c.view sc := handleRunning_view _ _ _
@[simp] theorem enterRunning_view : (c.enterRunning sc).view sc = c.view sc := by simp [Card.enterRunning]
@[simp] theorem testReadiness_view : (c.testReadiness sc).view sc = c.view sc := by
  unfold Card.testReadiness; split <;> simp
@[simp] theorem dueStart_view : (c.dueStart sc).view sc = c.view sc := by
  unfold Card.dueStart; simp only; split <;> simp
@[simp] theorem runOrStarve_view : (c.runOrStarve sc).view sc = c.view sc := by
  unfold Card.runOrStarve; split <;> simp
@[simp] theorem starvedOut_view : (c.starvedOut sc).view sc = c.view sc := by simp [Card.starvedOut]
@[simp] theorem countStarve_view : (c.countStarve sc).view sc = c.view sc := by
  unfold Card.countStarve; simp only; repeat' split
  all_goals simp
@[simp] theorem recoverOrCount_view : (c.recoverOrCount sc).view sc = c.view sc := by
  unfold Card.recoverOrCount; split <;> simp
@[simp] theorem enterHeld_view (k) : (c.enterHeld sc k).view sc = c.view sc := by simp [Card.enterHeld]
@[simp] theorem faultHold_view : (c.faultHold sc).view sc = c.view sc := by
  unfold Card.faultHold; simp only; repeat' split
  all_goals simp
@[simp] theorem reachHeld_view (n) : (c.reachHeld sc n).view sc = c.view sc := by
  induction n generalizing c with
  | zero => rfl
  | succ n ih =>
    unfold Card.reachHeld
    repeat' split
    all_goals simp [ih]
@[simp] theorem sequencerWork_view : (c.sequencerWork sc).view sc = c.view sc := by
  unfold Card.sequencerWork; simp only; repeat' split
  all_goals simp
@[simp] theorem sequencerStep_view : (c.sequencerStep sc).view sc = c.view sc := by
  unfold Card.sequencerStep; split <;> simp
@[simp] theorem finishNow_view (k e) : (c.finishNow sc k e).view sc = c.view sc := by
  unfold Card.finishNow; split <;> simp
@[simp] theorem unloadScreen_view : (c.unloadScreen sc).view sc = c.view sc := by simp [Card.unloadScreen]

end Sys2Proof.Machine
end

