-- ==== Sys2Proof/Laws/Steps.lean ====
section
/-! SUPPORT. The view through whole steps: requests, LOAD, thresholds, fetches, the frame boundary, and what ends every
step. -/
namespace Sys2Proof.Machine

section
variable (c : Card) (sc sd : Idx4)

/-! ## Requests -/

@[simp] theorem handled_view : (c.handled sc).view sc = c.view sc := modSeq_view _ _ _
@[simp] theorem dropHold_view : (c.dropHold sc).view sc = c.view sc := modSeq_view _ _ _
@[simp] theorem takeHold_view : (c.takeHold sc).view sc = c.view sc := modSeq_view _ _ _
@[simp] theorem done_view (n) : (c.done sd n).view sc = c.view sc := rfl
@[simp] theorem refuse_view (n) : (c.refuse sd n).view sc = c.view sc := rfl
@[simp] theorem failScan_view (h sh) : (c.failScan h sh).view sc = c.view sc := by
  unfold Card.failScan; simp only; split <;> simp
@[simp] theorem requestStart_view (n) : (c.requestStart sc n).view sc = c.view sc := by
  unfold Card.requestStart; simp only
  repeat' split
  all_goals simp
@[simp] theorem readyFirst_view : (c.readyFirst sc).view sc = c.view sc := by
  unfold Card.readyFirst; split <;> simp
@[simp] theorem orderedStart_view (n o) : (c.orderedStart sc n o).view sc = c.view sc := by
  unfold Card.orderedStart; split <;> simp
@[simp] theorem requestHold_view (n) : (c.requestHold sc n).view sc = c.view sc := by
  unfold Card.requestHold; simp only; split <;> simp
@[simp] theorem eventFirst_view (o) : (c.eventFirst sc o).view sc = c.view sc := by
  unfold Card.eventFirst; simp only
  repeat' split
  all_goals simp
@[simp] theorem resumeShow_view : (c.resumeShow sc).view sc = c.view sc := by
  unfold Card.resumeShow; simp only
  repeat' split
  all_goals simp
@[simp] theorem requestResume_view (n) : (c.requestResume sc n).view sc = c.view sc := by
  unfold Card.requestResume; split <;> simp
@[simp] theorem requestContinue_view (n) : (c.requestContinue sc n).view sc = c.view sc := by
  unfold Card.requestContinue; split <;> simp
@[simp] theorem endBy_view (k) : (c.endBy sc k).view sc = c.view sc := by simp [Card.endBy]
@[simp] theorem afterSkip_view : (c.afterSkip sc).view sc = c.view sc := by
  unfold Card.afterSkip
  repeat' split
  all_goals simp
@[simp] theorem requestSkip_view (n) : (c.requestSkip sc n).view sc = c.view sc := by
  unfold Card.requestSkip; split <;> simp
@[simp] theorem jump_view (i r) : (c.jump sc i r).view sc = c.view sc := by
  unfold Card.jump; simp only; split <;> simp
@[simp] theorem jumpTitle_view (n i r t) : (c.jumpTitle sc n i r t).view sc = c.view sc := by
  unfold Card.jumpTitle
  repeat' split
  all_goals simp
@[simp] theorem requestJump_view (n r) : (c.requestJump sc n r).view sc = c.view sc := by
  unfold Card.requestJump; simp only
  repeat' split
  all_goals simp
@[simp] theorem requestStop_view (n) : (c.requestStop sc n).view sc = c.view sc := by
  unfold Card.requestStop; split <;> simp
@[simp] theorem requestUnload_view (n) : (c.requestUnload sc n).view sc = c.view sc := by
  unfold Card.requestUnload; split <;> simp
@[simp] theorem answerSet_view (n f) : (c.answerSet sd n f).view sc = c.view sc := rfl
@[simp] theorem modSettings_view (f) : (c.modSettings sc f).view sc = c.view sc := modSeq_view _ _ _
@[simp] theorem requestLevel_view (n f b) : (c.requestLevel sc n f b).view sc = c.view sc := by simp [Card.requestLevel]
@[simp] theorem requestLipsync_view (n b) : (c.requestLipsync sc n b).view sc = c.view sc := by
  simp [Card.requestLipsync]
@[simp] theorem requestRoutes_view (n b) : (c.requestRoutes sc n b).view sc = c.view sc := by simp [Card.requestRoutes]
@[simp] theorem requestLanguages_view (n b) : (c.requestLanguages sc n b).view sc = c.view sc := by
  simp [Card.requestLanguages]
@[simp] theorem settleKey_view (t k) : (c.settleKey sd t k).view sc = c.view sc := modScr_view _ _ _ _ fun _ => rfl
@[simp] theorem declineKey_view (n t) : (c.declineKey sd n t).view sc = c.view sc := by simp [Card.declineKey]
@[simp] theorem requestKey_view (n t a) : (c.requestKey sd n t a).view sc = c.view sc := by
  unfold Card.requestKey; simp only
  repeat' split
  all_goals simp

/-! ## LOAD -/

@[simp] theorem beginLoad_view (m h n) : (c.beginLoad m h sc n).view sc = c.view sc := modSeq_view _ _ _
@[simp] theorem requestLoad_view (m h n) : (c.requestLoad m h sc n).view sc = c.view sc := by
  unfold Card.requestLoad
  repeat' split
  all_goals simp
@[simp] theorem failLoad_view (h l f) : (c.failLoad h sd l f).view sc = c.view sc := by
  unfold Card.failLoad; split <;> simp
@[simp] theorem firstCurrent_view (i) : (c.firstCurrent sc i).view sc = c.view sc := by simp [Card.firstCurrent]
@[simp] theorem firstPass_view : (c.firstPass sc).view sc = c.view sc := by
  unfold Card.firstPass
  generalize hr : c.armNext sc = r
  have h : r.1.view sc = c.view sc := by rw [← hr]; simp
  obtain ⟨d, _ | i⟩ := r
  · simpa using h
  · simpa using h
@[simp] theorem installLoad_view (l b) : (c.installLoad sc l b).view sc = c.view sc := by simp [Card.installLoad]
@[simp] theorem finishIfLatched_view (l) : (c.finishIfLatched sc l).view sc = c.view sc := by
  unfold Card.finishIfLatched; split <;> simp
@[simp] theorem forgetTitles_view : (c.forgetTitles sd).view sc = c.view sc := rfl
@[simp] theorem completeLoad_view (m h) : (c.completeLoad m h sc).view sc = c.view sc := by
  unfold Card.completeLoad
  simp only
  split
  · rfl
  · split <;> simp

/-! ## Thresholds and failed accesses -/

@[simp] theorem starvedOutNow_view : (c.starvedOutNow sc).view sc = c.view sc := by
  unfold Card.starvedOutNow; simp only; split <;> simp
@[simp] theorem trainingTimeout_view : (c.trainingTimeout sc).view sc = c.view sc := by
  unfold Card.trainingTimeout; simp only; split <;> simp
@[simp] theorem noAnswer_view : (c.noAnswer sc).view sc = c.view sc := by
  unfold Card.noAnswer; simp only
  repeat' split
  all_goals simp
@[simp] theorem failFetchBurst_view (b) : (c.failFetchBurst b).view sc = c.view sc := by
  unfold Card.failFetchBurst; simp only
  repeat' split
  all_goals rfl
@[simp] theorem failUnitBurst_view (r b) : (c.failUnitBurst sd r b).view sc = c.view sc := by
  unfold Card.failUnitBurst; simp only
  repeat' split
  all_goals simp
@[simp] theorem failRecordWrite_view : (c.failRecordWrite).view sc = c.view sc := by
  unfold Card.failRecordWrite; simp only
  repeat' split
  all_goals simp

/-! ## Fetches: the units of a chunk reach one screen -/

theorem discardFetched_view (m h i) : (c.discardFetched m h i).view sc = c.view sc := by simp [Card.discardFetched]

theorem judgeFetched_view (e : DirEntry) (bs : List Byte) : ∃ sd, (c.judgeFetched e bs).view sd = c.view sd := by
  unfold Card.judgeFetched
  simp only
  split
  · exact ⟨.i0, rfl⟩
  · rename_i sd _
    refine ⟨sd, ?_⟩
    repeat' split
    all_goals first | rfl | (rw [takeChunk_view c e ⟨sd, _, _, _, _⟩])

/-- A fetch that completes can change one screen's sequencer: a fault of its text units makes a fault hold due. -/
theorem completeFetch_view (m : Mem) (h : Header) : ∃ sd, (c.completeFetch m h).view sd = c.view sd := by
  unfold Card.completeFetch
  simp only
  split
  · exact ⟨.i0, rfl⟩
  · split
    · exact ⟨.i0, rfl⟩
    · repeat' split
      · exact ⟨.i0, rfl⟩
      · exact ⟨.i0, by rw [discardFetched_view]; rfl⟩
      · exact ⟨.i0, by rw [discardFetched_view]; rfl⟩
      · exact ⟨.i0, by rw [discardFetched_view]; rfl⟩
      · obtain ⟨sd, hs⟩ := judgeFetched_view (({ c with fetch := none } : Card).busDone _) _ _
        exact ⟨sd, hs⟩

/-! ## The frame boundary -/

theorem modAuto_seq (f) : ((c.modAuto f).scr sd) = c.scr sd := rfl

/-- The view without the automation unit. -/
def Card.viewBut (sc : Idx4) (c : Card) : View := { c.view sc with auto := {} }

theorem viewBut_of_view {c d : Card} {sc : Idx4} (h : c.view sc = d.view sc) : c.viewBut sc = d.viewBut sc := by
  unfold Card.viewBut; rw [h]

@[simp] theorem modAuto_viewBut (f) : (c.modAuto f).viewBut sc = c.viewBut sc := rfl
@[simp] theorem driveCue_viewBut (n b w) : (c.driveCue sd n b w).viewBut sc = c.viewBut sc := by
  unfold Card.driveCue; split <;> simp
@[simp] theorem applyCue_viewBut (k) : (c.applyCue sd k).viewBut sc = c.viewBut sc := by
  unfold Card.applyCue
  repeat' split
  all_goals first | exact driveCue_viewBut _ _ _ _ _ _ | rfl | exact viewBut_of_view (levelCue_view _ _ _ _ _)

theorem foldl_viewBut {α : Type} (l : List α) (f : Card → α → Card) (h : ∀ c x, (f c x).viewBut sc = c.viewBut sc)
    (c : Card) : (l.foldl f c).viewBut sc = c.viewBut sc := by
  induction l generalizing c with
  | nil => rfl
  | cons x t ih => exact (ih (f c x)).trans (h c x)

@[simp] theorem fireCues_viewBut (f l) : (c.fireCues sd f l).viewBut sc = c.viewBut sc := by
  unfold Card.fireCues
  simp only
  split
  · rfl
  · rw [foldl_viewBut sc l _ (fun c k => applyCue_viewBut c sc sd _),
      foldl_viewBut sc _ _ (fun c k => applyCue_viewBut c sc sd k)]
    rfl

theorem showFrame_view (f) : (c.showFrame sc f).1.view sc = c.view sc := by
  unfold Card.showFrame
  repeat' split
  all_goals simp

/-- What follows the automation unit's work at a boundary. -/
theorem blockWork_viewBut : (c.blockWork sc).viewBut sc = c.viewBut sc := by
  unfold Card.blockWork
  simp only
  have h := showFrame_view ((c.trainLink sc).applySelection sc) sc (c.scr sc).seq.presented
  generalize ((c.trainLink sc).applySelection sc).showFrame sc (c.scr sc).seq.presented = r at h
  simp only [applySelection_view, trainLink_view] at h
  have step : ∀ d : Card, (((((d.feedSound sc (c.scr sc).seq.presented).modSound sc Sound.takeRoutes).transferPicture sc
      (c.scr sc).seq.presented).buildCaptions sc (showsTitle (c.scr sc).seq.presented)).positionReport sc).view sc =
      d.view sc := fun d => by simp [Card.positionReport]
  exact (viewBut_of_view (step _)).trans ((fireCues_viewBut _ _ _ _ _).trans
    (viewBut_of_view ((settleTarget_view _ _ _).trans h)))

theorem screenBoundary_viewBut : (c.screenBoundary sc).viewBut sc = c.viewBut sc := by
  unfold Card.screenBoundary
  rw [viewBut_of_view (modSeq_view _ _ _), blockWork_viewBut]
  exact viewBut_of_view (by simp)

@[simp] theorem takeHandedOver_view : (c.takeHandedOver sd).view sc = c.view sc := by simp [Card.takeHandedOver]

/-- A frame boundary touches the sequencer of its own screen alone, and of the rest of the view the automation unit. -/
theorem frameBoundary_viewBut : (c.frameBoundary sc).viewBut sc = c.viewBut sc := by
  have h1 : (c.beginPeriod sc).viewBut sc = c.viewBut sc := viewBut_of_view (modSound_view _ _ _ _)
  unfold Card.frameBoundary
  simp only
  rw [show ∀ d : Card, (d.fixPeriod sc).viewBut sc = d.viewBut sc from
    fun d => viewBut_of_view (modSound_view _ _ _ _)]
  repeat' split
  · exact (screenBoundary_viewBut _ _).trans h1
  · exact (viewBut_of_view (by simp)).trans h1
  · exact (viewBut_of_view (by simp)).trans h1

/-! ## The booth tick -/

@[simp] theorem seedSlot_view (m h i) : (Card.seedSlot m h c i).view sc = c.view sc := by
  unfold Card.seedSlot; simp only; split <;> simp
@[simp] theorem seedPage_view (m h i) : (Card.seedPage m h c i).view sc = c.view sc := by
  unfold Card.seedPage; simp only; split <;> simp
@[simp] theorem retrySeeds_view (m h) : (c.retrySeeds m h).view sc = c.view sc := by
  unfold Card.retrySeeds
  simp only
  rw [foldl_view sc _ _ (fun c i => seedPage_view c sc m h i), foldl_view sc _ _ (fun c i => seedSlot_view c sc m h i)]
@[simp] theorem tickWork_view (m h b) : (c.tickWork m h b).view sc = c.view sc := by
  cases b <;> simp [Card.tickWork]

end

/-! ## Whole steps -/

section
variable (s : State) (sc : Idx4)

@[simp] theorem finish_view : s.finish.card.view sc = s.card.view sc := by
  have h := finish_spec s
  obtain ⟨q, k, b, d, e, hc, hs, _⟩ := h.card
  rw [hc]
  unfold Card.view
  simp only
  congr 2
  refine Quad.ext_get fun i => ?_
  obtain ⟨y, _, hy⟩ := hs i
  simp only [Quad.get_map, hy]
  rfl

theorem act_view (f : Card → Card) (h : (f s.card).view sc = s.card.view sc) :
    (s.act f).card.view sc = s.card.view sc := by
  unfold State.act; rw [finish_view]; exact h

theorem actOn_view (sd : Idx4) (f : Card → Card) (h : (f s.card).view sc = s.card.view sc) :
    (s.actOn sd f).card.view sc = s.card.view sc := by
  unfold State.actOn; split
  · exact act_view s sc f h
  · rfl

theorem actHeader_view (f : Header → Card → Card) (h : ∀ k, (f k s.card).view sc = s.card.view sc) :
    (s.actHeader f).card.view sc = s.card.view sc := by
  unfold State.actHeader
  split
  · rfl
  · split
    · exact act_view s sc _ (h _)
    · rfl

theorem takeRequest_view (h : Header) (sh : Sheet) (r : RequestWord) (reads : List SheetRead) (f : Card → Card)
    (hf : ∀ c, (f c).view sc = c.view sc) : (s.takeRequest h sh r reads f).card.view sc = s.card.view sc := by
  unfold State.takeRequest
  split
  · exact act_view (s.setTaken sh true) sc _ (failScan_view _ _ _ _)
  · split
    · split
      · exact act_view (s.setTaken sh true) sc _ rfl
      · unfold State.act
        rw [finish_view]
        refine (hf _).trans ?_
        rw [foldl_view sc reads (fun c x => c.busDone x.access) (fun _ _ => rfl)]
        rfl
    · rfl

theorem screenRequest_view (r : RequestWord) (reads : Header → List SheetRead) (f : Header → Card → Card)
    (hf : ∀ h c, (f h c).view sc = c.view sc) : (s.screenRequest sc r reads f).card.view sc = s.card.view sc := by
  unfold State.screenRequest
  split
  · rfl
  · split
    · rfl
    · refine takeRequest_view s sc _ _ r _ _ fun c => ?_
      split
      · rfl
      · exact (hf _ _).trans (settleTransfer_view _ _)

theorem boothRequest_view (sh : Sheet) (r : RequestWord) (f : Card → Card) (hf : ∀ c, (f c).view sc = c.view sc) :
    (s.boothRequest sh r f).card.view sc = s.card.view sc := by
  unfold State.boothRequest
  split
  · rfl
  · exact takeRequest_view s sc _ sh r [] f hf

end

/-! ## The canonical form through whole steps -/

theorem wf_finish {s : State} (h : Mem.wf s.mem) : Mem.wf s.finish.mem := (finish_spec s).mem h
theorem wf_act {s : State} (f : Card → Card) (h : Mem.wf s.mem) : Mem.wf (s.act f).mem :=
  wf_finish (s := { s with card := f s.card }) h

end Sys2Proof.Machine
end

