-- ==== Sys2Proof/Laws/Answers.lean ====
section
/-! SUPPORT. Where a request is taken, what its step is; what publication stores, and what an answer word then reads
as. -/
namespace Sys2Proof.Machine

/-! ## Requests that are taken -/

theorem busDone_nil {c : Card} (h : c.bus = []) (a : BusAccess) : c.busDone a = c := by
  cases c; simp_all [Card.busDone]

theorem busFailed_nil {c : Card} (h : c.bus = []) (a : BusAccess) : c.busFailed a = false := by
  simp [Card.busFailed, Card.busCount, h, Config.busTries]

theorem busDone_foldl_nil {c : Card} (h : c.bus = []) (l : List SheetRead) :
    l.foldl (fun c x => c.busDone x.access) c = c := by
  induction l with
  | nil => rfl
  | cons x t ih => simpa [busDone_nil h] using ih

/-- A request that is taken: the last taken number is written and the effect is made. -/
theorem takeRequest_taken {s : State} {sh : Sheet} {h : Header} {r : RequestWord} (reads : List SheetRead)
    (f : Card → Card) (t : s.takes sh h r) :
    s.takeRequest h sh r reads f = (s.setLastTaken sh r.number).act f := by
  have hb := t.calm.bus
  unfold State.takeRequest
  rw [if_neg (by simp [busFailed_nil hb]), if_pos t.fresh]
  have : reads.find? (fun x => s.card.busFailed x.access) = none := by
    simp [busFailed_nil hb]
  rw [this]
  unfold State.act
  simp only [State.setLastTaken_card, busDone_nil hb, busDone_foldl_nil hb]

theorem boothRequest_taken {s : State} {sh : Sheet} {h : Header} {r : RequestWord} (f : Card → Card)
    (t : s.takes sh h r) : s.boothRequest sh r f = (s.setLastTaken sh r.number).act f := by
  unfold State.boothRequest
  rw [t.scanned]
  exact takeRequest_taken _ _ t

/-- A screen request that is judged: the frame of the last boundary is settled, then the request has its effect. -/
theorem screenRequest_judged {s : State} {sc : Idx4} {h : Header} {r : RequestWord} (reads : Header → List SheetRead)
    (f : Header → Card → Card) (j : s.judges sc h r) :
    s.screenRequest sc r reads f = (s.setLastTaken (.screen sc) r.number).act (fun c => f h (c.settleTransfer sc)) := by
  unfold State.screenRequest
  rw [j.takes.scanned]
  simp only [j.noLoad]
  rw [if_neg (by simp), takeRequest_taken _ _ j.takes]
  unfold State.act
  simp [j.running]

/-- A port changed twice is changed by what gives the same port. -/
theorem modPort_congr {c : Card} {sc : Idx4} {f g : PicturePort → PicturePort}
    (h : f (c.scr sc).port = g (c.scr sc).port) : c.modPort sc f = c.modPort sc g := by
  have hs : (c.screens.get sc).port = (c.scr sc).port := rfl
  simp only [Card.modPort, Card.modScr, Quad.modify, hs, h]

/-- Where the link stays, settling the transfer settles the picture port of the screen and changes nothing else. -/
theorem settleTransfer_stays {c : Card} {sc : Idx4} (h : c.linkStays sc) :
    c.settleTransfer sc = c.modPort sc PicturePort.settled := by
  unfold Card.settleTransfer
  simp only
  split
  · rename_i ht
    rw [modPort_congr (g := id) (by simp [PicturePort.settled, ht])]
    simp only [Card.modPort, Card.modScr, Quad.modify, id]
    rw [show c.screens.set sc (c.screens.get sc) = c.screens from Quad.ext_get fun i => by
      by_cases hi : i = sc
      · subst hi; simp
      · rw [Quad.get_set_ne _ _ hi]]
  · rename_i t ht
    have ha : (c.scr sc).port.abandon = { (c.scr sc).port with
        transfer := none, lost := if t.kind = .picture then (c.scr sc).port.lost + 1 else (c.scr sc).port.lost } := by
      obtain ⟨k, _, _, _, _, _, _⟩ := t
      simp only [PicturePort.abandon, ht]
      cases k <;> simp [PicturePort.loseFrame]
    split
    · rename_i hx
      exact modPort_congr (by simp [ha, PicturePort.settled, ht, hx])
    · rename_i hx
      rcases h t ht with hy | hn
      · exact absurd hy hx
      · rw [if_pos hn]
        refine (show _ = c.modPort sc fun p => { p.abandon with answerWait := (c.scr sc).port.answerWait + 1 } by
          simp [Card.modPort, Card.modScr, Quad.modify]).trans (modPort_congr ?_)
        simp [ha, PicturePort.settled, ht, hx]

/-! ## What publication stores -/

/-- The span of booth memory a publication stores to. -/
def Publication.span (h : Header) : Publication → Nat × Nat
  | .notice sh k detail => (h.noticeAddr sh k, 4 + detail.length)
  | .answer sh _ _ detail => (h.answerAddr sh, 8 + detail.length)
  | .report sh fields groups => (h.sheetAddr sh + (sheetLayout sh).report, 8 + (reportBody fields groups).length)
  | .slotAnswer slot _ _ => h.slotSpan slot
  | .pageAnswer page _ _ => (h.pagePartAddr page, 8)
  | .pageFill page _ _ => (h.pagePartAddr page + 8, 8)
  | .pageRecord addr bytes => (addr, bytes.length)

theorem read_store_outside {s : State} {a b n : Nat} {bs : List Byte} (h : ¬ inSpan b (a, n)) (hl : bs.length ≤ n) :
    (s.store a bs).mem.read b = s.mem.read b :=
  Mem.read_writeBytes_ne _ _ _ _ fun k hk e => h ⟨k, Nat.lt_of_lt_of_le hk hl, e⟩

/-- What stays as it is through the publication of one item, where no access has failed. -/
structure Kept (h : Header) (s t : State) : Prop where
  header : t.card.header = some h
  bus : t.card.bus = []
  seeded : ∀ sh, (t.scan.get sh).seeded = (s.scan.get sh).seeded

theorem kept_beginNotice {h : Header} {s : State} (hh : s.card.header = some h) (hb : s.card.bus = []) (sh k) :
    Kept h s (s.beginNotice h sh k) := by
  refine ⟨hh, hb, fun x => ?_⟩
  by_cases hx : x = sh
  · subst hx; simp [State.beginNotice, SheetScan.setPlace]
  · simp [State.beginNotice, Scanner.get_set_ne _ _ hx]

/-- The publication of a notice: what stays, and what it stores to. -/
theorem noticeRaised_spec {h : Header} {s : State} (hh : s.card.header = some h) (hb : s.card.bus = []) (sh k)
    (d : List Byte) :
    Kept h s (s.noticeRaised sh k d) ∧
      ∀ b, ¬ inSpan b (h.noticeAddr sh k, 4 + d.length) → (s.noticeRaised sh k d).mem.read b = s.mem.read b := by
  have base : ∀ p, Kept h s { s with scan := s.scan.set sh ((s.scan.get sh).setPlace k p) } := by
    intro p
    refine ⟨hh, hb, fun x => ?_⟩
    by_cases hx : x = sh
    · subst hx; simp [SheetScan.setPlace]
    · simp [Scanner.get_set_ne _ _ hx]
  have hplace : ∀ (x : SheetScan) (p : NoticePlace), (x.setPlace k p).place k = p := fun x p => by
    simp [SheetScan.setPlace, SheetScan.place, FMap.find_put]
  unfold State.noticeRaised
  simp only [hh]
  generalize hw : ((s.scan.get sh).place k).writing.isSome = w
  generalize hp : (if w = true then ({ (s.scan.get sh).place k with
      count := ((s.scan.get sh).place k).count + 1, detail := d.take 120, newer := true } : NoticePlace) else
    { (s.scan.get sh).place k with count := ((s.scan.get sh).place k).count + 1, detail := d.take 120 }) = p
  have hd : p.detail = d.take 120 := by subst hp; split <;> rfl
  split
  · have kb := base p
    have kn := kept_beginNotice (s := { s with scan := s.scan.set sh ((s.scan.get sh).setPlace k p) }) hh hb sh k
    refine ⟨⟨kn.header, kn.bus, fun x => (kn.seeded x).trans (kb.seeded x)⟩, fun b hbs => ?_⟩
    unfold State.beginNotice
    simp only [Scanner.get_set, hplace, hd]
    exact read_store_outside (s := { s with scan := s.scan.set sh ((s.scan.get sh).setPlace k p) }) hbs
      (by rw [List.length_append, leBytes_length, List.length_take]; omega)
  · exact ⟨base p, fun b _ => rfl⟩

/-- The publication of one item where no access has failed: it stores to its span alone. -/
theorem publishOne_spec {h : Header} {s : State} (hh : s.card.header = some h) (hb : s.card.bus = [])
    (p : Publication) :
    Kept h s (s.publishOne p) ∧ ∀ b, ¬ inSpan b (p.span h) → (s.publishOne p).mem.read b = s.mem.read b := by
  have same : ∀ t : State, t.card.header = s.card.header → t.card.bus = [] → t.scan = s.scan → Kept h s t :=
    fun t h1 h2 h3 => ⟨h1.trans hh, h2, fun sh => by rw [h3]⟩
  unfold State.publishOne
  rw [hh]
  cases p with
  | notice sh k d => exact noticeRaised_spec hh hb sh k d
  | answer sh n r d =>
    simp only [State.publishAnswer]
    split
    · rw [if_neg (by simp [busFailed_nil hb])]
      refine ⟨same _ rfl (by simp [busDone_nil hb, hb]) rfl, fun b hbs => ?_⟩
      exact read_store_outside (s := { s with card := s.card.busDone (.answerWrite sh) }) hbs
        (by simp [leBytes_length]; omega)
    · exact ⟨same _ rfl hb rfl, fun _ _ => rfl⟩
  | report sh fs gs =>
    have hx : ∀ q : U32, ∀ t : State, t.card.header = s.card.header → t.card.bus = [] →
        t.scan = s.scan.set sh { s.scan.get sh with reportSeq := q } → Kept h s t := by
      intro q t h1 h2 h3
      refine ⟨h1.trans hh, h2, fun x => ?_⟩
      rw [h3]
      by_cases hx : x = sh
      · subst hx; simp
      · simp [Scanner.get_set_ne _ _ hx]
    simp only [State.publishReport]
    split
    · rw [if_neg (by simp [busFailed_nil hb])]
      have hr : ∀ b, ¬ inSpan b (Publication.span h (.report sh fs gs)) →
          (State.store { s with
            card := s.card.busDone (.reportWrite sh)
            scan := s.scan.set sh { s.scan.get sh with reportSeq := (s.scan.get sh).reportSeq + 1 } }
            (h.sheetAddr sh + (sheetLayout sh).report)
            (leBytes ((s.scan.get sh).reportSeq + 1).toNat 4 ++ reportBody fs gs ++
              leBytes ((s.scan.get sh).reportSeq + 1).toNat 4)).mem.read b = s.mem.read b :=
        fun b hbs => read_store_outside hbs (by simp [leBytes_length]; omega)
      cases sh
      · exact ⟨hx _ _ rfl (by simp [busDone_nil hb, hb]) rfl, hr⟩
      · exact ⟨hx _ _ rfl (by simp [busDone_nil hb, hb]) rfl, hr⟩
      · exact ⟨hx _ _ rfl (by simp [busDone_nil hb, hb]) rfl, hr⟩
    · cases sh <;> exact ⟨same _ rfl hb rfl, fun _ _ => rfl⟩
  | slotAnswer slot g r =>
    simp only [State.publishSlotAnswer]
    rw [if_neg (by simp [busFailed_nil hb])]
    refine ⟨same _ rfl (by simp [busDone_nil hb, hb]) rfl, fun b hbs => ?_⟩
    exact read_store_outside (s := { s with card := s.card.busDone _ }) hbs (by simp [leBytes_length])
  | pageAnswer page g r =>
    simp only [State.publishPageAnswer]
    split
    · rw [if_neg (by simp [busFailed_nil hb])]
      refine ⟨same _ rfl (by simp [busDone_nil hb, hb]) rfl, fun b hbs => ?_⟩
      exact read_store_outside (s := { s with card := s.card.busDone _ }) hbs (by simp [leBytes_length])
    · exact ⟨same _ rfl hb rfl, fun _ _ => rfl⟩
  | pageFill page fill g =>
    simp only [State.publishPageFill]
    split
    · refine ⟨same _ rfl hb rfl, fun b hbs => read_store_outside hbs ?_⟩
      cases g <;> simp [leBytes_length]
    · exact ⟨same _ rfl hb rfl, fun _ _ => rfl⟩
  | pageRecord addr bs => exact ⟨same _ rfl hb rfl, fun b hbs => read_store_outside hbs (Nat.le_refl _)⟩

/-- The publication of a list of items where no access has failed stores to their spans alone. -/
theorem publish_foldl_spec {h : Header} (ps : List Publication) {s : State} (hh : s.card.header = some h)
    (hb : s.card.bus = []) :
    Kept h s (ps.foldl State.publishOne s) ∧
      ∀ b, (∀ p ∈ ps, ¬ inSpan b (p.span h)) → (ps.foldl State.publishOne s).mem.read b = s.mem.read b := by
  induction ps generalizing s with
  | nil => exact ⟨⟨hh, hb, fun _ => rfl⟩, fun _ _ => rfl⟩
  | cons p t ih =>
    obtain ⟨k1, r1⟩ := publishOne_spec hh hb p
    obtain ⟨k2, r2⟩ := ih k1.header k1.bus
    refine ⟨⟨k2.header, k2.bus, fun sh => (k2.seeded sh).trans (k1.seeded sh)⟩, fun b hbs => ?_⟩
    exact (r2 b fun q hq => hbs q (List.mem_cons_of_mem _ hq)).trans (r1 b (hbs p List.mem_cons_self))

/-- The end of a step at which no page is sought is the publication of what the blocks handed over. -/
theorem finish_eq_publish {s : State} (hs : s.card.seekDue = false) :
    ∃ q, s.finish = s.card.outbox.foldl State.publishOne
      { s with card := { s.card with screens := q, outbox := [] } } := by
  obtain ⟨q, hq, _⟩ := settleTargets_spec s.card
  refine ⟨q, ?_⟩
  unfold State.finish State.publishAll Card.seekIfDue
  rw [hq]
  simp [hs]

/-- The end of a step where no access has failed and no page is sought: it stores to the spans of what the blocks handed
over, and to no other byte. -/
theorem finish_read {s : State} {h : Header} (hh : s.card.header = some h) (hb : s.card.bus = [])
    (hs : s.card.seekDue = false) (b : Nat) (ho : ∀ p ∈ s.card.outbox, ¬ inSpan b (p.span h)) :
    s.finish.mem.read b = s.mem.read b := by
  obtain ⟨q, hq⟩ := finish_eq_publish hs
  rw [hq]
  exact (publish_foldl_spec s.card.outbox (s := { s with card := { s.card with screens := q, outbox := [] } }) hh hb).2
    b ho

/-- Where the last thing handed over is an answer, its sheet's answer word reads as that answer and its cause is set. -/
theorem finish_answered {s : State} {h : Header} {sh : Sheet} {n : U32} {r : AnswerResult} {detail : List (Nat × Nat)}
    {o : List Publication} (hh : s.card.header = some h) (hb : s.card.bus = []) (hs : s.card.seekDue = false)
    (hseed : (s.scan.get sh).seeded = true) (ho : s.card.outbox = o ++ [.answer sh n r.code (answerDetail detail)]) :
    s.finish.answered h sh n r detail := by
  obtain ⟨q, hq⟩ := finish_eq_publish hs
  have k := (publish_foldl_spec o (s := { s with card := { s.card with screens := q, outbox := [] } }) hh hb).1
  rw [hq, ho, List.foldl_append]
  generalize o.foldl State.publishOne { s with card := { s.card with screens := q, outbox := [] } } = u at k
  have hu : (u.scan.get sh).seeded = true := (k.seeded sh).trans hseed
  simp only [List.foldl, State.publishOne, k.header, State.publishAnswer, hu, if_true]
  rw [if_neg (by simp [busFailed_nil k.bus])]
  have hlen : (answerDetail detail).length = 24 := by simp [answerDetail, padTo]; omega
  refine ⟨?_, ?_⟩
  · simp only [State.setCause_mem, State.store_mem]
    have := Mem.readBytes_writeBytes u.mem (h.answerAddr sh)
      (leBytes r.code 2 ++ [0, 0] ++ answerDetail detail ++ leBytes n.toNat 4) 0 32
      (by simp [leBytes_length, hlen]) (by simp [leBytes_length, hlen, addressSpace])
    rw [Nat.add_zero] at this
    refine this.trans ?_
    rw [slice, List.drop_zero]
    exact List.take_of_length_le (by simp [leBytes_length, hlen])
  · have key : ∀ x y : BitVec 6, (x ||| y) &&& y = y := by
      intro x y
      ext i hi
      simpa using fun hy => Or.inr hy
    exact key _ _

end Sys2Proof.Machine
end

