-- ==== Sys2Proof/Laws/PerInstr.lean ====
section
/-! SUPPORT. What holds of every command as syntax, one lemma per constructor: a request is none of the events of the
engine, of power or of the clock's second, and it belongs to a screen exactly where its sheet is that screen's. -/
namespace Sys2Proof.Laws.Kind

open Machine (Permit ShowingRecord)

/-- A request moves no engine state, needs main power, and belongs to the screen of its sheet. -/
def Statement (i : Instr) : Prop :=
  ∀ sh r, i.request = some (sh, r) →
    i.movesEngine = false ∧ i.withoutPower = false ∧ ∀ sc, sh = .screen sc ↔ i.screen = some sc

/-- A command that is no request has the property. -/
theorem of_no_request {i : Instr} (h : i.request = none) : Statement i := by
  intro sh r hr
  simp [h] at hr

/-- A request of a screen has it. -/
theorem of_screen {i : Instr} {sc : Idx4} {r : RequestWord} (h : i.request = some (.screen sc, r))
    (hs : i.screen = some sc) (he : i.movesEngine = false) (hp : i.withoutPower = false) : Statement i := by
  intro sh r' hr
  rw [h] at hr
  cases hr
  simp [he, hp, hs]

/-- A request of the booth sheet or the key sheet has it. -/
theorem of_booth {i : Instr} {sh : Sheet} {r : RequestWord} (h : i.request = some (sh, r)) (hb : ∀ sc, sh ≠ .screen sc)
    (hs : i.screen = none) (he : i.movesEngine = false) (hp : i.withoutPower = false) : Statement i := by
  intro sh' r' hr
  rw [h] at hr
  cases hr
  refine ⟨he, hp, fun sc => ?_⟩
  simp [hb sc, hs]

theorem powerOn (standbyHeld : Bool) (permits : FMap Permit) (records : FMap ShowingRecord) :
    Statement (.powerOn standbyHeld permits records) :=
    of_no_request rfl
theorem runRequestSet (enables : Option (BitVec 6)) (host : HostWrites) : Statement (.runRequestSet enables host) :=
    of_no_request rfl
theorem runRequestClear (write : StopWrite) : Statement (.runRequestClear write) := of_no_request rfl
theorem engineReset (run : Bool) (enables : Option (BitVec 6)) : Statement (.engineReset run enables) :=
    of_no_request rfl
theorem attentionEnablesWrite (enables : BitVec 6) : Statement (.attentionEnablesWrite enables) := of_no_request rfl
theorem boothBaseWrite (value : U64) (cover : BitVec 8) : Statement (.boothBaseWrite value cover) := of_no_request rfl
theorem ignoredRegisterWrite (target : IgnoredWrite) (value : U64) : Statement (.ignoredRegisterWrite target value) :=
    of_no_request rfl
theorem attentionRead (cover : BitVec 8) : Statement (.attentionRead cover) := of_no_request rfl
theorem startChecksDone (host : HostWrites) : Statement (.startChecksDone host) := of_no_request rfl
theorem stopComplete (host : HostWrites) : Statement (.stopComplete host) := of_no_request rfl
theorem boothTick (inputs : BitVec 8) (emergency : EmergencySample) (host : HostWrites) :
    Statement (.boothTick inputs emergency host) :=
    of_no_request rfl
theorem frameBoundary (sc : Idx4) : Statement (.frameBoundary sc) := of_no_request rfl
theorem starvedOut (sc : Idx4) : Statement (.starvedOut sc) := of_no_request rfl
theorem pulseTimerExpiry (sc : Idx4) (output : Fin 8) : Statement (.pulseTimerExpiry sc output) := of_no_request rfl
theorem trainingTimeout (sc : Idx4) : Statement (.trainingTimeout sc) := of_no_request rfl
theorem noAnswer (sc : Idx4) : Statement (.noAnswer sc) := of_no_request rfl
theorem linkSamplePeriod (sc : Idx4) : Statement (.linkSamplePeriod sc) := of_no_request rfl
theorem dipDownEnd (sc : Idx4) : Statement (.dipDownEnd sc) := of_no_request rfl
theorem dipUpEnd (sc : Idx4) : Statement (.dipUpEnd sc) := of_no_request rfl
theorem boothClockSecond : Statement .boothClockSecond := of_no_request rfl
theorem load (sc : Idx4) (r : RequestWord) (order : Order) (host : HostWrites) : Statement (.load sc r order host) :=
    of_screen rfl rfl rfl rfl
theorem loadComplete (sc : Idx4) (host : HostWrites) : Statement (.loadComplete sc host) := of_no_request rfl
theorem start (sc : Idx4) (r : RequestWord) (order : Order) : Statement (.start sc r order) :=
    of_screen rfl rfl rfl rfl
theorem hold (sc : Idx4) (r : RequestWord) (order : Order) : Statement (.hold sc r order) := of_screen rfl rfl rfl rfl
theorem resume (sc : Idx4) (r : RequestWord) : Statement (.resume sc r) := of_screen rfl rfl rfl rfl
theorem continueHeld (sc : Idx4) (r : RequestWord) : Statement (.continueHeld sc r) := of_screen rfl rfl rfl rfl
theorem skip (sc : Idx4) (r : RequestWord) : Statement (.skip sc r) := of_screen rfl rfl rfl rfl
theorem reelJump (sc : Idx4) (r : RequestWord) (reel : Byte) : Statement (.reelJump sc r reel) :=
    of_screen rfl rfl rfl rfl
theorem stop (sc : Idx4) (r : RequestWord) : Statement (.stop sc r) := of_screen rfl rfl rfl rfl
theorem unload (sc : Idx4) (r : RequestWord) (order : Order) : Statement (.unload sc r order) :=
    of_screen rfl rfl rfl rfl
theorem setLevel (sc : Idx4) (r : RequestWord) (fade : U32) (host : HostWrites) :
    Statement (.setLevel sc r fade host) :=
    of_screen rfl rfl rfl rfl
theorem setLipsync (sc : Idx4) (r : RequestWord) (host : HostWrites) : Statement (.setLipsync sc r host) :=
    of_screen rfl rfl rfl rfl
theorem setRoutes (sc : Idx4) (r : RequestWord) (host : HostWrites) : Statement (.setRoutes sc r host) :=
    of_screen rfl rfl rfl rfl
theorem setLanguages (sc : Idx4) (r : RequestWord) (host : HostWrites) : Statement (.setLanguages sc r host) :=
    of_screen rfl rfl rfl rfl
theorem keyAnswer (sc : Idx4) (r : RequestWord) (track : U32) (answer : Byte) :
    Statement (.keyAnswer sc r track answer) :=
    of_screen rfl rfl rfl rfl
theorem unknownRequest (sh : Sheet) (r : RequestWord) (code : U16) : Statement (.unknownRequest sh r code) := by
  cases sh
  · exact of_screen rfl rfl rfl rfl
  · exact of_booth rfl (by simp) rfl rfl rfl
  · exact of_booth rfl (by simp) rfl rfl rfl
theorem permitAdd (r : RequestWord) (block : List Byte) : Statement (.permitAdd r block) :=
    of_booth rfl (by simp) rfl rfl rfl
theorem permitRemove (r : RequestWord) (permit : U32) : Statement (.permitRemove r permit) :=
    of_booth rfl (by simp) rfl rfl rfl
theorem permitWipe (r : RequestWord) : Statement (.permitWipe r) := of_booth rfl (by simp) rfl rfl rfl
theorem clockSet (r : RequestWord) (time : U64) : Statement (.clockSet r time) := of_booth rfl (by simp) rfl rfl rfl
theorem clearEmergency (r : RequestWord) : Statement (.clearEmergency r) := of_booth rfl (by simp) rfl rfl rfl
theorem fetchStart : Statement .fetchStart := of_no_request rfl
theorem fetchComplete (host : HostWrites) : Statement (.fetchComplete host) := of_no_request rfl
theorem busAccessFailure (access : BusAccess) : Statement (.busAccessFailure access) := of_no_request rfl
theorem unitReadStart (sc : Idx4) (reader : Reader) (host : HostWrites) : Statement (.unitReadStart sc reader host) :=
    of_no_request rfl
theorem soundUnitReadEnd (sc : Idx4) (host : HostWrites) : Statement (.soundUnitReadEnd sc host) := of_no_request rfl
theorem pictureUnitReadEnd (sc : Idx4) (host : HostWrites) : Statement (.pictureUnitReadEnd sc host) :=
    of_no_request rfl
theorem transferSegmentSent (sc : Idx4) : Statement (.transferSegmentSent sc) := of_no_request rfl
theorem projectorTaken (sc : Idx4) (count : U16) : Statement (.projectorTaken sc count) := of_no_request rfl
theorem projectorRefused (sc : Idx4) (count : U16) : Statement (.projectorRefused sc count) := of_no_request rfl
theorem backOffRequest (sc : Idx4) : Statement (.backOffRequest sc) := of_no_request rfl
theorem backOffRelease (sc : Idx4) : Statement (.backOffRelease sc) := of_no_request rfl
theorem linkFound (sc : Idx4) : Statement (.linkFound sc) := of_no_request rfl
theorem linkTrained (sc : Idx4) : Statement (.linkTrained sc) := of_no_request rfl
theorem trainingFailed (sc : Idx4) : Statement (.trainingFailed sc) := of_no_request rfl
theorem signalLost (sc : Idx4) : Statement (.signalLost sc) := of_no_request rfl
theorem captionSendComplete (sc : Idx4) : Statement (.captionSendComplete sc) := of_no_request rfl
theorem logRecordWriteStart : Statement .logRecordWriteStart := of_no_request rfl
theorem logRecordWritten : Statement .logRecordWritten := of_no_request rfl
theorem noticeWriteEnd (sh : Sheet) (kind : NoticeKind) : Statement (.noticeWriteEnd sh kind) := of_no_request rfl
theorem mainPowerLoss : Statement .mainPowerLoss := of_no_request rfl

end Sys2Proof.Laws.Kind
end

