-- ==== Sys2Proof/Laws/Permits.lean ====
section
/-! SUPPORT. What a change of a permit's record does to the permit table: release, end after credit, and credit (R84).
-/
namespace Sys2Proof.Machine

/-- A permit table becomes another where one named record is changed and R84's retirement follows: what all three calls
of R84 on a reserved permit come to. `w` is the record as it is written. -/
theorem Card.onPermit_becomes (c : Card) (id : Option U32) (put : Card → Nat → Permit → Card) (f w : Permit → Permit)
    (hput : ∀ c n p, (put c n p).permits = (c.setPlace n (w p)).permits) :
    c.permits.becomes (c.onPermit id put f).permits id
      (fun p => if (f p).state = .retiring ∧ (f p).users = 0 then none else some (w (f p))) := by
  unfold Card.onPermit PermitUnit.becomes
  cases id.bind c.permits.byId with
  | none => exact ⟨rfl, rfl⟩
  | some x =>
    obtain ⟨place, p⟩ := x
    dsimp only
    unfold Card.retire
    by_cases hr : (f p).state = .retiring ∧ (f p).users = 0
    · rw [if_pos hr]
      refine ⟨?_, fun n => ?_⟩
      · simp only [Card.permitChanged, Card.raise, Card.publish, Card.clearPermit, hput, Card.setPlace]
      · simp only [Card.permitChanged, Card.raise, Card.publish, Card.clearPermit, hput, Card.setPlace,
          FMap.find_erase, FMap.find_put, if_pos hr]
        by_cases hn : n = place
        · simp only [if_pos hn]
        · simp only [if_neg hn]
    · rw [if_neg hr]
      refine ⟨?_, fun n => ?_⟩
      · simp only [hput, Card.setPlace]
      · simp only [hput, Card.setPlace, FMap.find_put, if_neg hr]

/-- A release changes the named permit as R84 says, and no other. -/
theorem Card.release_becomes (c : Card) (id : Option U32) :
    c.permits.becomes (c.release id).permits id Permit.released := by
  have h := c.onPermit_becomes id Card.putPermit
    (fun p => { p with pending := p.pending - 1, users := p.users - 1 }) (fun p => p) (fun _ _ _ => rfl)
  simp only [Nat.sub_eq_zero_iff_le] at h
  exact h

/-- The end of a credited entry changes the named permit as R84 says, and no other. -/
theorem Card.endAfterCredit_becomes (c : Card) (id : Option U32) :
    c.permits.becomes (c.endAfterCredit id).permits id Permit.usedUp := by
  have h := c.onPermit_becomes id Card.setPlace (fun p => { p with users := p.users - 1 }) (fun p => p)
    (fun _ _ _ => rfl)
  simp only [Nat.sub_eq_zero_iff_le] at h
  exact h

/-- The credit call changes the named permit as R84 says, and no other. -/
theorem Card.creditPermit_becomes (c : Card) (id : Option U32) :
    c.permits.becomes (c.creditPermit id).permits id Permit.creditedOnce :=
  c.onPermit_becomes id Card.storePermit _ Permit.withCheck (fun _ _ _ => rfl)

end Sys2Proof.Machine
end

