-- ==== Sys2Proof/Tests/Slice0.lean ====
section
/-! SUPPORT. Tests of single commands against the manual's own figures, refusals of the WellFormed check, and for every
statement with hypotheses a state that meets them. Each theorem's comment names the rule or the worked example its
figures come from. -/
namespace Sys2Proof.Tests

open Sys2Proof Sys2Proof.Machine

/-! ## Helpers -/

/-- The state a command leaves. -/
def after (c : Instr) (s : State) : State :=
  match exec c s with
  | .next t => t
  | _ => s

/-- The bytes of a field written by the host. -/
def wr (a v w : Nat) : HostWrites :=
  (List.range w).map (fun i => (BitVec.ofNat 64 (a + i), BitVec.ofNat 8 (v / 256 ^ i)))

/-- A booth header at address 0 as 12.2 lays it out: one area from address 0, eight slots at 0x8000, the booth sheet at
0x1000, the key sheet at 0x2000, and screen 0 in ring 1 at 48 000 Hz with its sheet at 0x4000; safe pattern 0x08 and
emergency pattern 0x88 on screen 0. -/
def headerWrites : HostWrites :=
  wr 0 0x4854423034344C50 8 ++ wr 8 1 2 ++ wr 10 1 1 ++ wr 12 8 2 ++ wr 17 1 1 ++ wr 24 0x8000 8 ++ wr 33 1 1 ++
    wr 40 0x1000 8 ++ wr 56 0x2000 8 ++ wr 64 1 1 ++ wr 65 1 1 ++ wr 68 48000 4 ++ wr 73 1 1 ++ wr 80 0x4000 8 ++
    wr 192 0x08 1 ++ wr 196 0x88 1 ++ wr 264 0x10000 8 ++ wr 272 15 1

/-- The header those bytes spell, where the booth base is 0. -/
def hdr : Header :=
  let off : ScreenEntry := ⟨false, .r0, 0, ⟨0, .r0, 0⟩⟩
  { areas := [⟨0, 0x10000, true, true, true, true⟩], slotCount := 8, pool := ⟨0, .r1, 0x8000⟩
    boothSheet := ⟨0, .r1, 0x1000⟩, keySheet := ⟨0, .r0, 0x2000⟩
    screens := ⟨⟨true, .r1, 48000, ⟨0, .r1, 0x4000⟩⟩, off, off, off⟩ }

/-- A new request word. -/
def req : RequestWord := ⟨7, 7⟩

/-- A card whose engine works under that header, with a screen 0 and the rest as at power-on. -/
def card (e : EngineState) (x : Screen) : Card :=
  { engine := e, header := some hdr, screens := ⟨x, {}, {}, {}⟩, slots := List.replicate 8 {} }

/-- The machine with that card and every scanned sheet seeded. -/
def machine (c : Card) : State :=
  { card := c, scan := { screens := ⟨{ seeded := true }, {}, {}, {}⟩, booth := { seeded := true }
                         key := { seeded := true } } }

/-- A RUNNING engine with a sequencer on screen 0 and its link UP. -/
def playing (q : Sequencer) : State := machine (card .running { seq := q, port := { link := .up } })

/-- A show list of an INTERVAL of 10 s and one of 5 s. -/
def intervals : List Entry :=
  [{ kind := .interval 10, condition := .always, cues := [], status := .armed },
   { kind := .interval 5, condition := .always, cues := [], status := .armed }]

/-- A sequencer in its first interval with the second armed. -/
def inInterval (st : ScreenState) : Sequencer :=
  { state := st, current := some 0, armed := some 1, settled := true, started := true, position := some ⟨0, 3⟩
    loadNumber := some 5, list := intervals, nextLook := 2 }

/-- A title of two reels of 10 and 20 frames at 24 frames per second, unsealed. -/
def film : Title :=
  let reel := fun (d : Nat) (p s : U32) => (⟨d, [⟨.picture, p, false⟩, ⟨.sound 48000 2, s, false⟩]⟩ : Reel)
  ⟨0x51A7, 24, false, [reel 10 101 102, reel 20 201 202]⟩

/-- A sequencer in that title, at frame 4 of reel 0. -/
def inFilm (st : ScreenState) : Sequencer :=
  { state := st, current := some 0, settled := true, started := true, position := some ⟨0, 4⟩, loadNumber := some 5
    titles := [film], list := [{ kind := .title 0, condition := .always, cues := [], status := .armed }] }

/-- A reference to a frame of reel 0 in slot 0. -/
def unitRef (frame : Nat) : Ref :=
  { slot := 0, gen := 1, offset := 64, length := 12, check := 0, frame := frame, reel := 0, entry := 0 }

/-- A transfer in flight. -/
def sending (k : TransferKind) (f : Option Presented) : Transfer :=
  { kind := k, count := 812, frame := f, segments := [.header .i0 812 k f 0, .overlay []] }

/-- A permit in a place of the table. -/
def permit (id : U32) (st : PermitState) (users : Nat) : Permit :=
  ⟨id, 0x51A7, 1, 0, 1000, 0, 900, [⟨103, 9⟩], st, 0, users, users, 0⟩

/-- A showing record of screen 0's entry 0. -/
def record (n : U32) (st : RecordState) : ShowingRecord :=
  { number := n, screen := .i0, load := 5, entry := 0, title := 0x51A7, permit := none, state := st, total := 30
    needed := 27 }

/-! ## The check of a command's operands (WellFormed): each refusal -/

theorem test_wf_refuses_permit_place : Instr.wf (.powerOn true [(32, permit 1 .active 0)] []) = false := by decide
theorem test_wf_refuses_permit_field :
    Instr.wf (.powerOn true [(0, { permit 1 .active 0 with counted := 4294967296 })] []) = false := by decide
theorem test_wf_refuses_record_place : Instr.wf (.powerOn true [] [(16, record 1 .closed)]) = false := by decide
theorem test_wf_refuses_record_field :
    Instr.wf (.powerOn true [] [(0, { record 1 .closed with entry := 256 })]) = false := by decide
theorem test_wf_refuses_known_code : Instr.wf (.unknownRequest (.screen .i0) req 14) = false := by decide
theorem test_wf_refuses_short_block : Instr.wf (.permitAdd req []) = false := by decide
theorem test_wf_refuses_notice_of_other_sheet : Instr.wf (.noticeWriteEnd .key .fault) = false := by decide
theorem test_wf_refuses_failure_of_other_sheet : Instr.wf (.busAccessFailure (.noticeWrite .booth .fault)) = false := by
  decide
theorem test_wf_accepts_last_place :
    Instr.wf (.powerOn true [(31, permit 1 .active 0)] [(15, record 1 .closed)]) = true := by decide

/-! ## Figures of the manual -/

/-- R1: the check value of the nine ASCII digits 1 to 9 is 0xCBF43926. -/
theorem test_check_value :
    checkValue [0x31, 0x32, 0x33, 0x34, 0x35, 0x36, 0x37, 0x38, 0x39] = 0xCBF43926#32 := by decide +kernel

/-- 1.6: preroll 60 and recovery 50 are held as 48, show level 20 000 as 16384, and HOLD for MIX_CLIP as TALLY; flags 0,
1 and 5 are set. -/
theorem test_settings_of_section_1_6 :
    settingsOf (([60, 50, 20, 0, 0, 2] ++ leBytes 20000 2 ++ leBytes 480 2 ++ [3, 3, 3, 2, 1, 3] : List Byte)) =
      ({ preroll := 48, recovery := 48, starvation := 20, overlay := some .i0, captions := 2, level := 16384
         lipsync := 480 }, 0b000100011) := by decide +kernel

/-- 6.8: cue A, in 100, out 160, fade-in 4, shows at opacity 51 at frame 100. -/
theorem test_opacity_of_section_6_8 :
    TextCue.opacity ⟨1, 100, 160, 4, 4, .top, .i0, 0, []⟩ 100 = 51 := by decide

/-- R7 and 1.6: with reels of 20 000, 21 000 and 19 500 frames, the cue END − 1200 belongs at reel 2, frame 18 300. -/
theorem test_end_cue_of_section_1_6 :
    RawCue.resolve ⟨2, 1, 1200, 3, 0⟩ [20000, 21000, 19500] = some ⟨2, 18300, 1, 3, 0⟩ := by decide +kernel

/-- R149: 900 per mille of 60 500 frames needs 54 450; 999 of 1 frame needs 1. -/
theorem test_needed_frames : neededFrames 60500 900 = 54450 ∧ neededFrames 1 999 = 1 := by decide

/-- 4.8: of permits 7001, used up, and 7003, not yet open, screen 1 is refused ALLOWANCE_SPENT, naming 7001. -/
theorem test_permit_choice_of_section_4_8 :
    let keys : List PermitKey := [⟨101, 0⟩, ⟨102, 0⟩]
    let t : Title := ⟨0x51A7, 24, true, [⟨10, [⟨.picture, 101, true⟩, ⟨.sound 48000 12, 102, true⟩]⟩]⟩
    let u : PermitUnit := { clock := 100, clockSet := true, table := [
      (0, ⟨7001, 0x51A7, 6, 0, 1000, 3, 900, keys, .active, 2, 1, 1, 0⟩),
      (4, ⟨7003, 0x51A7, 2, 500, 1000, 0, 900, keys, .active, 0, 0, 0, 0⟩)] }
    (match u.choose .i1 t with | .error f => some (f.reason, f.permit) | .ok _ => none) =
      some (.allowanceSpent, some 7001) := by decide +kernel

/-- 12.2, R171: a header written byte by byte passes every check and reads as it should. -/
theorem test_header_bytes :
    startCheck ((Mem.hostStore [] headerWrites).readBytes 0 768) = none ∧
      headerOf ((Mem.hostStore [] headerWrites).readBytes 0 768) = hdr := by decide +kernel

/-- R102, R105: a sum of 1.5 samples rounds away from zero, and one above the largest sample is held there. -/
theorem test_rounding : roundHalfAway (-24576) 16384 = -2 ∧ saturate 8388608 = (8388607, true) := by decide

/-! ## Single commands -/

/-- R169: IDENT reads part code 0x0440 and revision 1, and ignores a write. -/
theorem test_ident_ignores_write :
    (after (.ignoredRegisterWrite .ident 5) State.reset).readRegister .ident = 0x10440 := by decide +kernel

/-- R169: bits 5 to 0 of BOOTH BASE read as 0, and a write of byte 1 alone keeps the rest. -/
theorem test_booth_base_part_write :
    (after (.boothBaseWrite 0xFFFF 2) State.reset).readRegister .boothBase = 0xFF00 ∧
      (after (.boothBaseWrite 0xFF 1) State.reset).readRegister .boothBase = 0xC0 := by decide +kernel

/-- R182: enabling a cause that is set asserts the line; reading it clears it. -/
theorem test_attention_line :
    let s : State := { window := { attention := 0b010000 } }
    s.window.line = false ∧ (after (.attentionEnablesWrite 0b010000) s).window.line = true ∧
      (after (.attentionRead 0xFF) s).window.attention = 0 := by decide +kernel

/-- R170: setting the run request starts the engine, which runs when its checks have passed. -/
theorem test_start : (after (.startChecksDone []) (after (.runRequestSet none headerWrites) State.reset)).card.engine =
    .running := by decide +kernel

/-- R144: the emergency pattern is on the outputs and stays there through an engine reset (R147). -/
theorem test_emergency_outlasts_reset :
    let s := after (.runRequestSet none headerWrites) State.reset
    let t := after (.engineReset false none) (after (.boothTick 0 ⟨true, []⟩ []) s)
    t.card.auto.outputs.q0 = 0x88 ∧ t.card.auto.latch = true := by decide +kernel

/-- R36, R185: HOLD in RUNNING is answered DONE, result 1, and the answered number stands last in the answer word. -/
theorem test_hold_answer_word :
    let t := after (.hold .i0 req .requestFirst) (playing (inInterval .running))
    (t.card.scr .i0).seq.state = .held .operator ∧ t.mem.field 0x6240 2 = 1 ∧ t.mem.field 0x625C 4 = 7 := by
  decide +kernel

/-- R181, 12.9: the notice place of STATE_CHANGE gets its opening copy and detail, state 5, kind 1, entry 0, load 5. -/
theorem test_state_change_place :
    let t := after (.hold .i0 req .requestFirst) (playing (inInterval .running))
    t.mem.readBytes 0x62C0 12 = [1, 0, 0, 0, 5, 1, 0, 0, 5, 0, 0, 0] := by decide +kernel

/-- R41: REEL_JUMP 1 leaves a RUNNING screen STARVED(REPOSITION) at reel 1 frame 0. -/
theorem test_reel_jump :
    let q := ((after (.reelJump .i0 req 1) (playing (inFilm .running))).card.scr .i0).seq
    q.state = .starved .reposition ∧ q.position = some ⟨1, 0⟩ := by decide +kernel

/-- R24, R35: the completion of an entry's last frame makes the armed entry current at its first frame. -/
theorem test_interval_ends :
    let s := playing { inInterval .running with position := some ⟨0, 239⟩, inProgress := true }
    let q := ((after (.frameBoundary .i0) s).card.scr .i0).seq
    q.current = some 1 ∧ q.position = some ⟨0, 0⟩ ∧ q.inProgress = true := by decide +kernel

/-- R80: a clock 600 s away takes the new time, one 601 s away does not. -/
theorem test_clock_step :
    let s := machine { card .running {} with permits := { clock := 1000, clockSet := true } }
    (after (.clockSet req 400) s).card.permits.clock = 400 ∧
      (after (.clockSet req 1601) s).card.permits.clock = 1000 := by decide +kernel

/-- 7.7: the frame with count 812 is delivered by TAKEN 812; TAKEN 813 is discarded. -/
theorem test_taken_of_section_7_7 :
    let s := machine (card .running { port := { link := .up, delivered := 20500
                                                transfer := some (sending .picture (some ⟨0, 1, 500, true⟩)) } })
    ((after (.projectorTaken .i0 812) s).card.scr .i0).port.delivered = 20501 ∧
      ((after (.projectorTaken .i0 813) s).card.scr .i0).port.delivered = 20500 := by decide +kernel

/-- R105: the master moves one step towards its target, and stops at it. -/
theorem test_master_steps :
    let s := machine (card .running { seq := { state := .running }
                                      sound := { level := 16384, target := 16384, master := 16300, step := 171 } })
    ((after (.linkSamplePeriod .i0) s).card.scr .i0).sound.master = 16384 := by decide +kernel

/-! ## States that meet the hypotheses of the statements, clause by clause -/

/-- A RUNNING engine with any sequencer of no LOAD judges a new request of screen 0. -/
theorem judges_playing (q : Sequencer) (hq : q.load = none) : (playing q).judges .i0 hdr req :=
  ⟨⟨⟨rfl, rfl, rfl, rfl⟩, rfl, rfl⟩, rfl, hq, fun _ ht => nomatch ht⟩

/-- Its screen 0 acts. -/
theorem acts_playing (q : Sequencer) : (playing q).acts .i0 hdr := ⟨⟨rfl, rfl, rfl, rfl⟩, rfl, rfl, rfl⟩

/-- A screen of a RUNNING engine with a port acts. -/
theorem acts_card (x : Screen) : (machine (card .running x)).acts .i0 hdr := ⟨⟨rfl, rfl, rfl, rfl⟩, rfl, rfl, rfl⟩

/-- A screen without a transfer keeps its link at the boundary. -/
theorem link_stays (q : Sequencer) : (playing q).card.linkStays .i0 := fun _ ht => nomatch ht

/-- Spans that end where the other begins, within the address space, lie apart. -/
theorem spansApart_of_le {p q : Nat × Nat} (h : p.1 + p.2 ≤ q.1 ∨ q.1 + q.2 ≤ p.1) (hp : p.1 + p.2 ≤ addressSpace)
    (hq : q.1 + q.2 ≤ addressSpace) : spansApart p q := by
  rintro a ⟨k, hk, ha⟩ ⟨j, hj, hb⟩
  simp only [addressSpace] at *
  omega

/-- Screen 0's answer word lies apart from the booth sheet. -/
theorem apart_hdr : hdr.apart (.screen .i0) :=
  spansApart_of_le (by decide +kernel) (by decide +kernel) (by decide +kernel)

theorem test_meets_StepRunsFrontCommand : State.reset.pending = [] := rfl

/-- Where the scanner holds nothing, every notice detail is empty. -/
theorem details_fit (s : State) (hs : s.scan = {}) : s.detailsFit := by
  intro sh k
  rw [hs]
  rcases sh with sc | _ | _ <;> try cases sc
  all_goals exact Nat.zero_le _

theorem test_meets_StepsKeepCanonicalState :
    Mem.wf State.reset.mem ∧ State.reset.baseAligned ∧ State.reset.settled ∧
      (∃ t, step { State.reset with pending := [.boothTick 1 ⟨true, []⟩ []] } = .next t) ∧
      ∀ s : State, s.scan = {} → s.detailsFit :=
  ⟨by decide, by unfold State.baseAligned; decide, ⟨rfl, rfl⟩, ⟨_, rfl⟩, details_fit⟩

theorem test_meets_LatchKeepsEmergencyPattern :
    let s := machine { card .running {} with
      auto := { latch := true, outputs := Quad.const 0x88, emergency := Quad.const 0x88 } }
    let u := machine { card .running {} with auto := { timers := Quad.const [(0, 2), (7, 1)] } }
    s.card.auto.latchLaw ∧ u.card.auto.timersRise ∧ (∃ t, exec (.frameBoundary .i0) u = .next t) ∧
      ∃ t, exec (.frameBoundary .i0) s = .next t :=
  ⟨fun _ => ⟨rfl, rfl⟩, (fun sc => by cases sc <;> simp [machine, card, Quad.const, Quad.get]), ⟨_, rfl⟩, _, rfl⟩

theorem test_meets_ScreenCommandsKeepOtherSequencers :
    Instr.screen (.stop .i0 req) = some .i0 ∧ Idx4.i1 ≠ .i0 ∧
      ∃ t, exec (.stop .i0 req) (playing (inFilm .running)) = .next t := ⟨rfl, by decide, _, rfl⟩

theorem test_meets_EngineAndClockMoveByTheirEvents :
    Instr.movesEngine (.boothTick 0 ⟨true, []⟩ []) = false ∧ Instr.movesClock (.boothTick 0 ⟨true, []⟩ []) = false ∧
      Instr.movesClock (.powerOn true [] []) = false ∧ ∃ t, exec (.boothTick 0 ⟨true, []⟩ []) State.reset = .next t :=
  ⟨rfl, rfl, rfl, _, rfl⟩

/-- A table with a permit of each kind of standing, its last place disturbed, and records in each state, the last one
disturbed. -/
def retained : State :=
  { card := {
    permits := { table := [(0, (permit 1 .active 1).withCheck), (30, (permit 2 .retiring 1).withCheck),
      (31, (permit 3 .active 0).withCheck)] }
    counter := { holding := [(record 1 .closed).withCheck, (record 2 .opened).withCheck, (record 3 .armed).withCheck,
      (record 4 .closed).withCheck] } } }

/-- What a disturbance left of the last permit and the last record: one changed field each. -/
def disturbance : Instr :=
  .powerOn true [(31, { (permit 3 .active 0).withCheck with counted := 1 })]
    [(3, { (record 4 .closed).withCheck with entry := 1 })]

set_option maxRecDepth 20000 in
/-- R90, R162: a disturbed permit is DAMAGED, a RETIRING one goes, a disturbed record is lost, and an OPEN one is
closed. -/
theorem test_meets_PowerOnKeepsRetainedState :
    FMap.Sorted retained.card.permits.table ∧ retained.powered = true ∧
      (after .mainPowerLoss retained).powered = false ∧
      Instr.withoutPower (.boothTick 0 ⟨true, []⟩ []) = false ∧
      (after disturbance retained).card.permits.table.map (fun x => (x.1, x.2.state, x.2.checkHolds)) =
        [(0, .active, true), (31, .damaged, true)] ∧
      (after disturbance retained).card.counter.holding.map (fun r => (r.number, r.endCause, r.checkHolds)) =
        [(1, none, true), (2, some .interrupted, true)] ∧ (after disturbance retained).card.owedLost = some 1 := by
  refine ⟨?_, rfl, rfl, rfl, ?_⟩
  · simp [FMap.Sorted, retained]
  · decide +kernel

set_option maxRecDepth 20000 in
/-- R72, R152, R81, R84: whole records, a permit with one showing left, one reserved, and one RETIRING with one user. -/
theorem test_meets_RetainedRecordsStayWhole :
    let limited : Permit := { permit 1 .active 1 with allowance := 2, counted := 1, pending := 0 }
    let last : Permit := { permit 2 .retiring 1 with pending := 1 }
    let c : Card := { permits := { clock := 5, clockSet := true, table := [(0, limited), (1, last)] } }
    let sealedFilm : Title := { film with isSealed := true }
    (retained.card.permits.table.all (fun x => x.2.checkHolds) ∧ retained.card.counter.holding.all (·.checkHolds) ∧
      retained.card.counter.inFlight ≤ retained.card.counter.freePlaces) ∧
      (match c.permits.choose .i0 sealedFilm with | .ok x => decide (x = (0, limited)) | .error _ => false) = true ∧
      c.permits.byId 2 = some (1, last) ∧ last.state = .retiring ∧ last.users = 1 ∧
      (c.release (some 2)).permits.table.map (·.1) = [0] ∧
      (c.reserve 0 limited).permits.byId 1 = some (0, { limited with pending := 1, users := 2 }) ∧
      (c.creditPermit (some 1)).permits.table.map (fun x => x.2.counted) = [2, 0] := by decide +kernel

/-- Power and each engine state: the hypotheses of RunRequestSetStarts, RunRequestClearStops, EngineResetClears,
and RegisterWritesTakeTheirBits. -/
theorem test_meets_register_commands :
    (∀ e ∈ [EngineState.off, .starting, .running, .stopping, .faulted], (machine (card e {})).powered = true ∧
      (machine (card e {})).card.engine = e) ∧
      (BitVec.getLsbD (1#8) 0 = true ∧ BitVec.getLsbD (254#8) 0 = false) := by
  refine ⟨?_, by decide⟩
  intro e _
  exact ⟨rfl, rfl⟩

/-- R171: no signature; every check passed; and, in the order of the checks, a version of 2, no area, an area of length
65, seven slots, a pool that ring 1 may not write, a booth sheet off the grid, and screen 0's sheet beyond its area, at
ring 0 and at a link rate of 0; and a start with notices owed of each kind. -/
theorem test_meets_StartChecksDecide :
    let s : State := { card := { engine := .starting } }
    let owing := { s with card := { s.card with
      auto := (after (.boothTick 0 ⟨true, []⟩ []) State.reset).card.auto, owedLost := some 4
      owedPermits := [⟨9, 1, 2, 3⟩] } }
    let t := after (.startChecksDone headerWrites) owing
    owing.settled ∧ owing.card.auto.owed ≠ none ∧ t.raised .booth .emergency = 1 ∧ t.raised .booth .recordLost = 1 ∧
      t.raised .key .permitChange = 1 ∧
    let read := fun (w : HostWrites) => (s.mem.hostStore w).readBytes s.window.boothBase.toNat 768
    s.powered = true ∧ s.card.engine = .starting ∧ s.card.bus = [] ∧ startCheck (read []) = some ⟨1, 0⟩ ∧
      startCheck (read headerWrites) = none ∧ startCheck (read (headerWrites ++ wr 8 2 2)) = some ⟨2, 0⟩ ∧
      startCheck (read (headerWrites ++ wr 10 0 1)) = some ⟨3, 255⟩ ∧
      startCheck (read (headerWrites ++ wr 264 65 8)) = some ⟨3, 0⟩ ∧
      startCheck (read (headerWrites ++ wr 12 7 2)) = some ⟨5, 0⟩ ∧
      startCheck (read (headerWrites ++ wr 272 13 1)) = some ⟨5, 0⟩ ∧
      startCheck (read (headerWrites ++ wr 80 0xD780 8)) = some ⟨4, 0⟩ ∧
      startCheck (read (headerWrites ++ wr 65 0 1)) = some ⟨4, 0⟩ ∧
      startCheck (read (headerWrites ++ wr 68 0 4)) = some ⟨4, 0⟩ ∧
      startCheck (read (headerWrites ++ wr 40 0x1001 8)) = some ⟨4, 4⟩ :=
  ⟨⟨rfl, rfl⟩, by decide +kernel⟩

/-- R83: of two screens whose next TITLE waits for the last showing of one permit, the stop arms the one whose turn
comes first, and the other's entry is refused. -/
theorem test_turns_decide_arming :
    let ti : Title := { film with isSealed := true, reels := [⟨10, [⟨.picture, 103, true⟩]⟩] }
    let q : Sequencer := { inInterval .running with
      armed := none, settled := false, nextLook := 1, titles := [ti]
      list := intervals.take 1 ++ [{ kind := .title 0, condition := .always, cues := [] }] }
    let p : Permit := { permit 9 .active 0 with allowance := 1, mask := 3 }
    let s := machine { card .running {} with
      screens := ⟨{ seq := q }, { seq := q }, {}, {}⟩, permits := { clockSet := true, table := [(0, p)] } }
    let refused := fun (turns : List Idx4) =>
      let t := after (.runRequestClear ⟨none, turns⟩) s
      ((t.raised (.screen .i0) .entryRefused).toNat, (t.raised (.screen .i1) .entryRefused).toNat)
    refused [.i0, .i1] = (0, 1) ∧ refused [.i1, .i0] = (1, 0) ∧ refused [] = (0, 0) := by decide +kernel

/-- A stop that is complete, and one with the run request and the latch set, a delay pending and a key table left. -/
theorem test_meets_StopCompleteTurnsOff :
    let x : Screen := { textKeys := [⟨103, 0, .held, false⟩], sound := { pendingDelay := some 480 } }
    let s := machine { card .stopping x with auto := { latch := true } }
    let again := { s with window := { runRequest := true } }
    let t := after (.stopComplete (wr 196 0x88 1)) again
    (machine (card .stopping {})).powered = true ∧ (machine (card .stopping {})).stopDone = true ∧
      again.stopDone = true ∧ t.card.engine = .starting ∧ t.card.auto.outputs = ⟨0x88, 0, 0, 0⟩ ∧
      (t.card.scr .i0).textKeys = [] ∧ (t.card.scr .i0).sound.delay = 480 := by decide +kernel

/-- A tick with the input inactive, one with the latch set already, the engine at work and not; a changed input; a key
sheet with a raising that the booth software has not seen; an EMERGENCY owed, on a sheet seeded and one still to seed.
-/
theorem test_meets_BoothTickSamplesInputs :
    let set : Automation := { latch := true }
    let s := machine (card .running {})
    let unseen := { s with scan := { s.scan with key := { seeded := true, places := [(0, { count := 3 })] } } }
    let t := after (.boothTick 5 ⟨false, []⟩ []) s
    let owing := { s with card := { s.card with auto := (after (.boothTick 0 ⟨true, []⟩ []) State.reset).card.auto } }
    let raisedBy := fun (s : State) => (after (.boothTick 0 ⟨true, []⟩ (wr 0x141C 7 4)) s).raised .booth .emergency
    raisedBy owing = 1 ∧ raisedBy { owing with scan := {} } = 8 ∧ raisedBy s = 1 ∧
      ({ owing with scan := {} } : State).detailsFit ∧
    s.powered = true ∧ set.latch = true ∧ s.card.active = true ∧ s.card.header ≠ none ∧
      State.reset.card.active = false ∧ State.reset.settled ∧
      ((t.scan.get .booth).place .inputChange).detail.take 2 = [5, 5] ∧
      t.raised .booth .inputChange = 1 ∧ unseen.raised .key .permitChange = 3 ∧
      (after (.boothTick 0 ⟨false, []⟩ []) unseen).window.attention &&& Sheet.key.causeBit = Sheet.key.causeBit ∧
      (after (.boothTick 0 ⟨false, []⟩ []) s).window.attention &&& Sheet.key.causeBit = 0 :=
  ⟨by decide +kernel, by decide +kernel, by decide +kernel, details_fit _ rfl, rfl, rfl, rfl, by decide, rfl,
    ⟨rfl, rfl⟩, by decide +kernel⟩

/-- The latch clear with a screen of each kind: DARK, playing, FINISHED, and one whose LOAD is in progress. -/
theorem test_meets_EmergencyInputSetsLatch :
    let l : LoadInProgress := ⟨1, {}, 0, 0, [], false⟩
    let s := machine { card .running { seq := inFilm .running } with
      screens := ⟨{ seq := inFilm .running }, {}, { seq := { state := .finished .empty } },
        { seq := { load := some l } }⟩ }
    s.powered = true ∧ s.card.auto.latch = false ∧ (s.card.scr .i0).seq.load = none ∧
      (s.card.scr .i1).seq.state = .dark ∧ (s.card.scr .i2).seq.state ≠ .dark ∧ (s.card.scr .i3).seq.load ≠ none := by
  decide +kernel

/-- A screen at reel 0 frame 4 of the film, with queues that hold the frame, or do not. -/
def filmScreen (st : ScreenState) (q : List QueueItem) : Screen :=
  { seq := inFilm st, port := { link := .up }, pictureQueue := q, soundQueue := q }

/-- R126, R101: at OFF, and on a screen that was not enabled, what was handed over comes into use at the next
boundary. -/
theorem test_meets_BoundaryOutsideWork :
    let x : Screen := { text := { pendingSelection := some ⟨some .i1, 2⟩ }
                        sound := { newRoutes := some [⟨0, 6, 16384⟩] } }
    let off := machine (card .off x)
    let spare := machine { card .running {} with screens := ⟨{}, x, {}, {}⟩ }
    let used := fun (x : Screen) => x.text.selection = ⟨some .i1, 2⟩ ∧ x.text.pendingSelection = none ∧
      x.sound.routes = [⟨0, 6, 16384⟩] ∧ x.sound.newRoutes = none
    off.powered = true ∧ off.settled ∧ off.card.active = false ∧ spare.card.active = true ∧
      spare.card.enabled .i1 = false ∧ used ((after (.frameBoundary .i0) off).card.scr .i0) ∧
      used ((after (.frameBoundary .i1) spare).card.scr .i1) ∧
      ((after (.frameBoundary .i1) spare).card.scr .i1).captions.sending.map (fun f => f.blocks.map (·.slot)) =
        some [.i1] :=
  ⟨rfl, ⟨rfl, rfl⟩, rfl, rfl, rfl, by decide +kernel, by decide +kernel, by decide +kernel⟩

/-- A list of a MARK and an INTERVAL, the MARK current and not reached, the INTERVAL armed. -/
def atMark (hold : Bool) : Sequencer :=
  { inInterval .running with
    started := false, position := some ⟨0, 0⟩
    list := { kind := .mark hold, condition := .always, cues := [], status := .armed } :: intervals.drop 1 }

/-- The sequencer of screen 0 after its boundary. -/
def bounded (s : State) : Sequencer := ((after (.frameBoundary .i0) s).card.scr .i0).seq

/-- A held record of screen 0's film. -/
def cueRecord (reel : Nat) (body : CueBody) : CueRecord :=
  { owner := .i0, entry := 0, reel := reel, arrival := 0, body := body }

/-- A TEXT cue of slot 1 over a span of frames, without fades. -/
def textCue (inFrame outFrame : Nat) : CueBody := .text ⟨9, inFrame, outFrame, 0, 0, .top, .i1, 0, []⟩

/-- A frame in progress within its reel, at its reel's end, with a cue shown there and one of the next reel, and at the
entry's end; a MARK to reach; a MARK that an entry end brings with a fault hold due. -/
theorem test_meets_BoundaryMovesShow :
    let frame := fun (r f : Nat) (x : List QueueItem) => machine (card .running { filmScreen .running x with
      seq := { inFilm .running with position := some ⟨r, f⟩, inProgress := true } })
    let cues := { frame 0 9 [.missing 0 1 0 1] with card := { (frame 0 9 [.missing 0 1 0 1]).card with
      screens := ⟨{ (frame 0 9 [.missing 0 1 0 1]).card.scr .i0 with
        text := { selection := ⟨some .i1, 0⟩, overlay := [0], queue := [1] } }, {}, {}, {}⟩
      pool := { held := [(0, cueRecord 0 (textCue 8 99)), (1, cueRecord 1 (textCue 0 9))] } } }
    let last : Sequencer := { inInterval .running with position := some ⟨0, 239⟩, inProgress := true }
    let brings : Sequencer := { last with faultHoldDue := true, list := intervals.take 1 ++ (atMark true).list.take 1 }
    (playing last).acts .i0 hdr ∧ (playing last).card.linkStays .i0 ∧ last.handled = false ∧ last.dueLater = false ∧
      last.dueEnded = false ∧ last.settled = true ∧ last.current = some 0 ∧ last.advance = .entryEnd ∧
      last.atMark = false ∧ brings.advance = .entryEnd ∧ (inFilm .running).title = some film ∧
      (bounded (frame 0 4 [.missing 0 0 5 1])).position = some ⟨0, 5⟩ ∧
      (bounded (frame 0 9 [.missing 0 1 0 1])).position = some ⟨1, 0⟩ ∧
      ((after (.frameBoundary .i0) cues).card.scr .i0).text.overlay = [1] ∧
      (after (.frameBoundary .i0) cues).card.pool.held.map (·.1) = [1] ∧
      (bounded (playing { last with armed := none })).state = .finished .complete ∧
      (bounded (playing last)).current = some 1 ∧ (bounded (playing (atMark true))).state = .held .mark ∧
      (bounded (playing (atMark false))).current = some 1 ∧ (bounded (playing brings)).state = .held .fault ∧
      (bounded (playing brings)).current = some 1 :=
  ⟨acts_playing _, link_stays _, by decide +kernel⟩

/-- A sealed title of two reels of 100 and 200 frames. -/
def feature : Title :=
  { film with isSealed := true, reels := film.reels.map (fun r => { r with duration := 10 * r.duration }) }

/-- A sequencer in that title under permit 1, the title armed again under permit 2. -/
def inFeature (st : ScreenState) (started : Bool) (p : Position) : Sequencer :=
  let e := fun (id : U32) => ({
    kind := .title 0, condition := .always, cues := [], status := .armed, permit := some id } : Entry)
  { state := st, current := some 0, armed := some 1, settled := true, started := started, position := some p
    loadNumber := some 5, titles := [feature], list := [e 1, e 2], nextLook := 2 }

/-- A screen with a sequencer of that kind, the permits reserved and the records in flight: 3 for the current entry and
4 for the armed one. -/
def licensed (q : Sequencer) (queue : List QueueItem) : State :=
  machine { card .running { seq := q, port := { link := .up }, pictureQueue := queue, soundQueue := queue } with
    permits := { table := [(0, permit 1 .active 1), (1, permit 2 .active 1)] }
    counter := { holding := [record 3 (if q.started then .opened else .armed), { record 4 .armed with entry := 1 }] } }

/-- Its screen acts. -/
theorem acts_licensed (q : Sequencer) (l : List QueueItem) :
    (licensed q l).acts .i0 hdr ∧ (licensed q l).card.linkStays .i0 ∧ (licensed q l).card.auto.timersRise :=
  ⟨⟨⟨rfl, rfl, rfl, rfl⟩, rfl, rfl, rfl⟩, (fun _ ht => nomatch ht),
    fun sc => by cases sc <;> simp [licensed, machine, card, Quad.const, Quad.get]⟩

/-- It judges a new request. -/
theorem judges_licensed (q : Sequencer) (l : List QueueItem) (hq : q.load = none) : (licensed q l).judges .i0 hdr req :=
  ⟨⟨⟨rfl, rfl, rfl, rfl⟩, rfl, rfl⟩, rfl, hq, fun _ ht => nomatch ht⟩

/-- The number, state and end cause of every record, and the pending count of every permit. -/
def books (t : State) : List (U32 × RecordState × Option EndCause) × List Nat :=
  (t.card.counter.holding.map (fun r => (r.number, r.state, r.endCause)), t.card.permits.table.map (·.2.pending))

/-- The start of the next TITLE in both queues. -/
def nextReel (i : Nat) : List QueueItem := [.missing i 0 0 100]

/-- The feature's last frame completes, the next TITLE's first frame at hand and not; a MARK without HOLD_AT_MARK before
that TITLE, and with nothing armed (R33 to R35, R155). -/
theorem test_meets_BoundaryMovesShow_titles :
    let last : Sequencer := { inFeature .running true ⟨1, 199⟩ with inProgress := true }
    let b := fun (l : List QueueItem) => after (.frameBoundary .i0) (licensed last l)
    let mark : Sequencer := { inFeature .running false ⟨0, 0⟩ with
      list := (atMark false).list.take 1 ++ last.list.drop 1 }
    let m := bounded (licensed mark (nextReel 1))
    last.advance = .entryEnd ∧ last.shows 1 ∧ last.armsNone ∧ last.atMark = false ∧ mark.shows 1 ∧
      mark.list[0]?.map (·.kind) = some (.mark false) ∧
      books (b (nextReel 1)) = ([(3, .closed, some .complete), (4, .opened, none)], [0, 1]) ∧
      books (b []) = ([(3, .closed, some .complete), (4, .armed, none)], [0, 1]) ∧
      (bounded (licensed last (nextReel 1))).inProgress = true ∧ (bounded (licensed last [])).state = .starved .starve ∧
      m.current = some 1 ∧ m.inProgress = true ∧
      (bounded (licensed { mark with armed := none } [])).state = .finished .complete := by
  refine ⟨by decide +kernel, .inl (by decide +kernel), ?_, by decide +kernel, .inl (by decide +kernel),
    by decide +kernel⟩
  intro j hj
  cases hj
  decide +kernel

/-- READY with start-when-ready set, the link UP and DOWN, with a TITLE at its first frame and with an INTERVAL; the
recovery test met after a jump (R29, R38). -/
theorem test_meets_BoundaryTestsAndHolds_start :
    let q : Sequencer := { inFeature .ready false ⟨0, 0⟩ with startWhenReady := true }
    let t := after (.frameBoundary .i0) (licensed q (nextReel 0))
    let down := bounded (machine (card .running { seq := q }))
    let jumped := filmScreen (.starved .reposition) [.missing 0 0 4 6, .missing 0 1 0 20]
    q.title = some feature ∧ q.handled = false ∧ q.dueLater = false ∧ q.inProgress = false ∧
      (licensed q []).card.auto.latch = false ∧ headHolds (nextReel 0) 0 0 0 = true ∧
      ((t.card.scr .i0).seq.state, (t.card.scr .i0).seq.started) = (.running, true) ∧
      books t = ([(3, .opened, none), (4, .armed, none)], [1, 1]) ∧
      t.card.counter.plays.q0.map (fun p => (p.record, p.total, p.needed, p.credited, p.reels.length)) =
        some (3, 30, 27, 0, 2) ∧
      (down.state, down.startWhenReady) = (.ready, false) ∧ (bounded (licensed q [])).state = .starved .starve ∧
      (bounded (playing { inInterval .ready with startWhenReady := true })).inProgress = true ∧
      (machine (card .running jumped)).card.recoveryTest .i0 = true ∧
      (bounded (machine (card .running jumped))).state = .running := by decide +kernel

/-- A TITLE's first frame, at a boundary in RUNNING, by START and by RESUME: its record is OPEN, with a sound fault
where the sound unit is MISSING (R31, R149, R152, R154). -/
theorem test_meets_first_frame_clauses :
    let s := fun (st : ScreenState) => licensed (inFeature st false ⟨0, 0⟩) (nextReel 0)
    let first := fun (c : Instr) (st : ScreenState) =>
      (after c (s st)).card.counter.holding.map (fun r => (r.state, r.soundFaults))
    let opened := fun (n : Nat) => [(RecordState.opened, n), (.armed, 0)]
    (∀ st, (s st).acts .i0 hdr ∧ (s st).judges .i0 hdr req) ∧ (s .running).card.counter.recordOf .i0 0 ≠ none ∧
      first (.frameBoundary .i0) .running = opened 1 ∧ first (.start .i0 req .requestFirst) .ready = opened 0 ∧
      first (.resume .i0 req) (.held .operator) = opened 0 :=
  ⟨fun _ => ⟨(acts_licensed _ _).1, judges_licensed _ _ rfl⟩, by decide +kernel, by decide +kernel, by decide +kernel,
    by decide +kernel⟩

/-- Readiness not met; a recovery that fails below the limit and one that succeeds; fault hold due in each kind of
state. -/
theorem test_meets_BoundaryTestsAndHolds :
    let starved := filmScreen (.starved .starve) [.missing 0 0 4 6, .missing 0 1 0 20]
    let due := fun (q : Sequencer) => (bounded (playing { q with faultHoldDue := true })).state
    (∀ q, (playing q).acts .i0 hdr ∧ (playing q).card.linkStays .i0) ∧ (inFilm .loading).handled = false ∧
      (inFilm .loading).dueLater = false ∧ (inFilm .loading).inProgress = false ∧
      (bounded (playing (inFilm .loading))).state = .loading ∧
      (bounded (playing (inFilm (.starved .starve)))).starveCount = 1 ∧
      (machine (card .running starved)).card.recoveryTest .i0 = true ∧
      (bounded (machine (card .running starved))).state = .running ∧
      (bounded (playing (inFilm (.starved .reposition)))).starveCount = 0 ∧ due (inFilm .running) = .held .fault ∧
      due (inFilm (.starved .starve)) = .held .fault ∧ due (atMark true) = .held .fault ∧
      due (inFilm .ready) = .ready ∧ due (inFilm (.held .operator)) = .held .operator :=
  ⟨fun _ => ⟨acts_playing _, link_stays _⟩, by decide +kernel⟩

/-- A report that lies beside the booth sheet. -/
theorem test_meets_PositionReportWritten :
    (playing (inFilm .running)).acts .i0 hdr ∧ ((playing (inFilm .running)).scan.get (.screen .i0)).seeded = true ∧
      spansApart (hdr.sheetAddr (.screen .i0) + 8832, 44) (hdr.sheetAddr .booth + 576, 1120) ∧
      (after (.frameBoundary .i0) (playing (inFilm .running))).mem.field 0x6280 4 = 1 :=
  ⟨acts_playing _, rfl, spansApart_of_le (by decide +kernel) (by decide +kernel) (by decide +kernel), by decide +kernel⟩

/-- Running timers of screen 0: output 6 with five frames to go, output 7 with its last. -/
def pulsing : Automation := { outputs := Quad.const 0xC0, timers := ⟨[(6, 5), (7, 1)], [], [], []⟩ }

/-- Those timers rise. -/
theorem pulsing_rises : pulsing.timersRise := fun sc => by cases sc <;> simp [pulsing, Quad.get]

/-- The first frame, and a frame in progress that is the last but one: the last frame's cues, SET 3 and one of no known
action, with a timer that runs out and one that runs on (R140 to R142). A selection that is pending is applied there,
and at the boundary of a TITLE that starves (R126). -/
theorem test_meets_BoundaryPlaysInterval :
    let q : Sequencer := { inInterval .running with position := some ⟨0, 0⟩, started := false }
    let cues : List EntryCue := [⟨0, 239, 1, 3, 0⟩, ⟨0, 239, 9, 0, 0⟩, ⟨0, 238, 1, 4, 0⟩]
    let q' : Sequencer := { inInterval .running with
      position := some ⟨0, 238⟩, inProgress := true
      list := { kind := .interval 10, condition := .always, cues := cues, status := .armed } :: intervals.drop 1 }
    let s := { playing q' with card := { (playing q').card with auto := pulsing } }
    let t := after (.frameBoundary .i0) s
    let chosen := fun (q : Sequencer) => ((after (.frameBoundary .i0) (machine (card .running
      { seq := q, text := { pendingSelection := some ⟨some .i1, 2⟩ } }))).card.scr .i0).text
    chosen q = { selection := ⟨some .i1, 2⟩ } ∧ chosen (inFilm .running) = { selection := ⟨some .i1, 2⟩ } ∧
    (playing q).acts .i0 hdr ∧ (playing q).card.linkStays .i0 ∧ s.acts .i0 hdr ∧ s.card.auto.timersRise ∧
      q.state = .running ∧ q.handled = false ∧ q.faultHoldDue = false ∧ q.settled = true ∧ q.current = some 0 ∧
      q.list[0]?.map (·.kind) = some (.interval 10) ∧ q.inProgress = false ∧ q'.inProgress = true ∧ 238 + 1 < 24 * 10 ∧
      t.card.auto.outputs = ⟨0x48, 0xC0, 0xC0, 0xC0⟩ ∧ t.card.auto.timers.get .i0 = [(6, 4)] ∧
      t.raised (.screen .i0) .cuePassed = 1 :=
  ⟨by decide +kernel, by decide +kernel, acts_playing _, link_stays _, ⟨⟨rfl, rfl, rfl, rfl⟩, rfl, rfl, rfl⟩,
    pulsing_rises, by decide +kernel⟩

/-- Frame 4 of the film, with a cue that is over, two that are due of which the set has room for one, one overrun, and a
track cue PULSE 5; the picture ready, the sound MISSING under CONCEAL. -/
def presenting (link : LinkState) : State :=
  let picture := Staged.mk (unitRef 4) ⟨0, .r1, 0x9000⟩ (.ready [1, 2, 3])
  let x : Screen := { filmScreen .running [.missing 0 0 4 1] with
    pictureQueue := [.ref (unitRef 4)]
    seq := { inFilm .running with settings := { soundUnit := .conceal } }
    port := { link := link, staged := some picture, outage := true }
    text := { selection := ⟨some .i1, 0⟩, overlay := [0, 1, 2, 3], queue := [4, 5, 6, 7] } }
  let held : FMap CueRecord :=
    [(0, cueRecord 0 (textCue 0 4)), (1, cueRecord 0 (textCue 0 9)), (2, cueRecord 0 (textCue 0 9)),
     (3, cueRecord 0 (textCue 0 9)), (4, cueRecord 0 (textCue 2 4)), (5, cueRecord 0 (textCue 3 9)),
     (6, cueRecord 0 (textCue 4 9)), (7, cueRecord 0 (.automation ⟨4, 3, 5, 6⟩))]
  machine { card .running x with auto := pulsing, pool := { held := held } }

/-- A frame that both heads hold, on a link that is UP and on one that is not, and one that no head holds; what R120 to
R123, R140, R98, R133 and R135 make of the first, and R121's overrun. -/
theorem test_meets_BoundaryPresentsTitle :
    let s := presenting .up
    let x := s.card.scr .i0
    let t := after (.frameBoundary .i0) s
    let y := t.card.scr .i0
    (∀ l, (presenting l).acts .i0 hdr ∧ (presenting l).card.linkStays .i0 ∧ (presenting l).card.auto.timersRise) ∧
      x.seq.state = .running ∧ x.seq.handled = false ∧ x.seq.faultHoldDue = false ∧ x.seq.inProgress = false ∧
      x.seq.current = some 0 ∧ x.seq.title = some film ∧ x.seq.position = some ⟨0, 4⟩ ∧
      headHolds x.pictureQueue 0 0 4 = true ∧ headHolds x.soundQueue 0 0 4 = true ∧
      headHolds [.ref (unitRef 5)] 0 0 4 = false ∧ y.text.overlay = [1, 2, 3, 5] ∧ y.text.queue = [6] ∧
      t.card.pool.held.map (·.1) = [1, 2, 3, 5, 6] ∧ y.tallies[16]? = some 1 ∧ t.raised (.screen .i0) .fault = 1 ∧
      y.sound.feed = none ∧ t.card.auto.timers.get .i0 = [(5, 6), (6, 4)] ∧ t.card.auto.outputs.get .i0 = 0x60 ∧
      y.port.transfer.map (fun r => (r.kind, r.segments.length, r.segments[1]?)) =
        some (.picture, 3, some (.picture [1, 2, 3])) ∧
      ((after (.frameBoundary .i0) (presenting .down)).card.scr .i0).port.lost = 1 :=
  ⟨fun _ => ⟨⟨⟨rfl, rfl, rfl, rfl⟩, rfl, rfl, rfl⟩, (fun _ ht => nomatch ht), pulsing_rises⟩, by decide +kernel⟩

/-- The starvation limit, the 48th boundary of training, the 8th unanswered transfer and a pulse's last frame. -/
theorem test_meets_ThresholdsActAtTheirLimits :
    let q : Sequencer := { inFilm (.starved .starve) with starveCount := 239 }
    let p : PicturePort := { link := .up, answerWait := 7, transfer := some (sending .picture none) }
    let trains : PicturePort := { link := .training, training := 47 }
    let pulse := machine { card .running {} with
      auto := { timers := ⟨[(7, 1)], [], [], []⟩, outputs := Quad.const 0x80 } }
    (playing q).acts .i0 hdr ∧ (q.state = .starved .starve ∧ (playing q).card.recoveryTest .i0 = false ∧
      q.starveLimit ≤ q.starveCount + 1 ∧ q.faultHoldDue = false ∧ q.handled = false) ∧
      (∀ p, (machine (card .running { port := p })).acts .i0 hdr) ∧ p.answerWait = 7 ∧
      p.transfer.map (·.answered) = some false ∧ pulse.acts .i0 hdr ∧
      FMap.find (pulse.card.auto.timers.get .i0) (7 : Fin 8).val = some 1 ∧
      (after (.starvedOut .i0) (playing q)).card.engine = .running ∧
      (((after (.trainingTimeout .i0) (machine (card .running { port := trains }))).card.scr .i0).port.link = .down) ∧
      ((after (.noAnswer .i0) (machine (card .running { port := p }))).card.scr .i0).port.link = .down ∧
      (after (.pulseTimerExpiry .i0 7) pulse).card.auto.outputs.q0 = 0 :=
  ⟨acts_playing _, by decide +kernel, fun _ => acts_card _, rfl, rfl, ⟨⟨rfl, rfl, rfl, rfl⟩, rfl, rfl, rfl⟩, rfl,
    by decide +kernel⟩

/-- The last place of the delay line and the longest delay, without a dip, and each way with one: DOWN that ends in a
period, and as an event of its own, UP that ends. -/
theorem test_meets_SamplePeriodsAndDips :
    let x : Sound := { write := 8191, delay := 8191, master := 5, target := 0, step := 5, pendingDelay := some 480 }
    let s := fun (x : Sound) => machine (card .running { seq := { state := .running }, sound := x })
    let sound := fun (c : Instr) (x : Sound) => ((after c (s x)).card.scr .i0).sound
    let up : Sound := { dip := .up, master := 9000, target := 9000, level := 9000 }
    let heard := { x with
      feed := some { bytes := leBytes 5 3 ++ leBytes 6 3, rate := 48000, channels := 1 }, routes := [⟨0, 6, 32767⟩] }
    (∀ x, (s x).powered = true ∧ (s x).settled) ∧ x.write < 8192 ∧ x.delay < 8192 ∧ up.master = up.target ∧
      lineRead (sound (.linkSamplePeriod .i0) heard).line 8191 6 = 10 ∧
      lineRead (sound (.linkSamplePeriod .i0) heard).line 8190 6 = 0 ∧
      (sound (.linkSamplePeriod .i0) x).write = 0 ∧
      (sound (.linkSamplePeriod .i0) { x with dip := .down, level := 9000 }).delay = 480 ∧
      (sound (.linkSamplePeriod .i0) { x with dip := .down, level := 9000 }).target = 9000 ∧
      (sound (.linkSamplePeriod .i0) up).dip = .none ∧
      (sound (.dipDownEnd .i0) { x with dip := .down, master := 0 }).delay = 480 ∧
      (sound (.dipUpEnd .i0) up).dip = .none :=
  ⟨fun _ => ⟨rfl, rfl, rfl⟩, by decide +kernel⟩

/-- R107, R104: SET_LEVEL to 0 over ten seconds and a fault hold at one boundary: the fader goes to 0 over 96 sample
periods. -/
theorem test_level_zero_and_mute :
    let x : Screen := { seq := { inFilm .running with faultHoldDue := true }, port := { link := .up }
                        sound := { master := 16384, target := 16384 } }
    let s := after (.setLevel .i0 req 10000 (wr 0x4146 0 2)) (machine (card .running x))
    let t := after (.frameBoundary .i0) s
    (s.card.scr .i0).sound.step = 1 ∧ (t.card.scr .i0).seq.state = .held .fault ∧
      (t.card.scr .i0).sound.target = 0 ∧ (t.card.scr .i0).sound.step = 171 := by decide +kernel

/-- R101, R102: two channels of 96 000 Hz on a link of 48 000: the mean of 3 and 4 rounds to 4, at gain 1; a channel
beyond the count gives 0; a gain of 32767 saturates the largest sample. -/
theorem test_mixed_sample :
    let f : SoundFeed := { bytes := [3, 4].flatMap (fun v => leBytes v 3 ++ leBytes 0 3), rate := 96000, channels := 2 }
    let x := fun (source gain : Nat) => ({ feed := some f, routes := [⟨source, 6, gain⟩] } : Sound).mixed 6
    let loud : SoundFeed := { bytes := leBytes 8388607 3, rate := 48000, channels := 1 }
    x 0 16384 = (4, false) ∧ x 2 16384 = (0, false) ∧
      ({ feed := some loud, routes := [⟨0, 6, 32767⟩] } : Sound).mixed 6 = (8388607, true) := by decide +kernel

/-- A LINK_LOST with each disposition, one saturated output, and a STOP with a count. -/
theorem test_meets_FaultsAreJudged :
    let lost := fun (v : Disposition) (due : Bool) => machine (card .running { port := { link := .up }, seq :=
      { inFilm .running with settings := { linkLost := v }, faultHoldDue := due } })
    let cut := fun v due => (after (.signalLost .i0) (lost v due)).card.scr .i0
    let loud : Sound := { feed := some { bytes := leBytes 8388607 3, rate := 48000, channels := 1 }
                          routes := [⟨0, 6, 32767⟩] }
    let tallied := machine (card .running { seq := inFilm .running, tallies := List.replicate 17 1, sound := loud })
    (∀ v due, (lost v due).acts .i0 hdr) ∧ tallied.judges .i0 hdr req ∧ (cut .hold false).seq.faultHoldDue = true ∧
      (cut .hold true).tallies[12]? = some 1 ∧ (cut .conceal false).tallies = List.replicate 17 0 ∧
      (cut .tally false).tallies[12]? = some 1 ∧ (inFilm .running).settings.mixClip = .tally ∧
      ((after (.linkSamplePeriod .i0) tallied).card.scr .i0).tallies[13]? = some 2 ∧
      ((after (.stop .i0 req) tallied).card.scr .i0).tallies = List.replicate 17 0 :=
  ⟨fun _ _ => ⟨⟨rfl, rfl, rfl, rfl⟩, rfl, rfl, rfl⟩,
    ⟨⟨⟨rfl, rfl, rfl, rfl⟩, rfl, rfl⟩, rfl, rfl, fun _ ht => nomatch ht⟩,
    by decide +kernel⟩

/-- A sheet not scanned, a LOAD in progress, a number taken already and a word torn between its readings. -/
theorem test_meets_RequestsAreTakenOnce :
    State.reset.powered = true ∧ Instr.request (.stop .i0 req) = some (.screen .i0, req) ∧
      State.reset.scanned (.screen .i0) = none ∧ (playing {}).scanned (.screen .i0) = some hdr ∧
      (playing {}).card.busFailed (.requestWord (.screen .i0)) = false ∧ Instr.wf (.stop .i0 ⟨7, 8⟩) = true ∧
      (⟨0, 0⟩ : RequestWord).number = ((playing {}).scan.get (.screen .i0)).lastTaken ∧
      (⟨7, 8⟩ : RequestWord).again ≠ (⟨7, 8⟩ : RequestWord).number ∧
      ((playing { load := some ⟨1, {}, 0, 0, [], false⟩ }).card.scr .i0).seq.load ≠ none ∧
      ((after (.stop .i0 ⟨7, 8⟩) (playing {})).scanned (.screen .i0)) = none := by decide +kernel

/-- R25: of two requests sent before one boundary the first alone is taken; the boundary makes the next scan due. -/
theorem test_one_request_a_boundary :
    let s := after (.hold .i0 req .requestFirst) (playing (inInterval .running))
    (after (.resume .i0 ⟨8, 8⟩) s).card = s.card ∧
      ((after (.resume .i0 ⟨8, 8⟩) (after (.frameBoundary .i0) s)).card.scr .i0).seq.state = .running := by
  decide +kernel

theorem test_meets_StoppingRefusesRequests :
    (machine (card .stopping {})).takes (.screen .i0) hdr req ∧ (machine (card .stopping {})).card.engine = .stopping ∧
      Instr.request (.unknownRequest (.screen .i0) req 15) = some (.screen .i0, req) ∧
      Instr.wf (.unknownRequest (.screen .i0) req 15) = true :=
  ⟨⟨⟨rfl, rfl, rfl, rfl⟩, rfl, rfl⟩, rfl, rfl, by decide⟩

/-- A request of no order, one with an order with no event and one taken first, and REEL_JUMP on an INTERVAL. -/
theorem test_meets_StateRefusesRequests :
    (∀ st, (playing (inInterval st)).judges .i0 hdr req) ∧ (playing {}).judges .i0 hdr req ∧
      (playing {}).card.noEvent .i0 ∧ Instr.order (.resume .i0 req) = none ∧
      Instr.refusedIn (.skip .i0 req) ((playing {}).card.scr .i0).seq.state = true ∧
      Instr.refusedIn (.load .i0 req .requestFirst []) (.held .fault) = true ∧ (inInterval .running).title = none ∧
      (after (.reelJump .i0 req 0) (playing (inInterval .running))).mem.field 0x6240 2 = 3 :=
  ⟨fun _ => judges_playing _ rfl, judges_playing _ rfl, ⟨rfl, rfl⟩, by decide +kernel⟩

/-- The last frame of a show in progress, with no successor. -/
def lastFrame : Sequencer := { inInterval .running with position := some ⟨0, 239⟩, inProgress := true, armed := none }

/-- Its completion ends the show. -/
theorem last_ends : (playing lastFrame).card.endsShow .i0 := ⟨rfl, by decide +kernel, rfl, rfl, rfl⟩

/-- LOAD with the latch clear, in DARK and in FINISHED, of a block with a preroll of 60 and a list of one INTERVAL; and
after the completion that ends a show. -/
theorem test_meets_LoadBegins :
    let f : Sequencer := { state := .finished .empty }
    let w := wr 0x4140 60 1 ++ wr 0x4200 1 1 ++ wr 0x4208 2 1 ++ wr 0x4209 1 1 ++ wr 0x420E 300 2
    let last := (after (.load .i0 req .eventFirst w) (playing lastFrame)).card.scr .i0
    (playing lastFrame).card.endsShow .i0 ∧ last.seq.state = .finished .complete ∧
      last.seq.load.map (·.number) = some 7 ∧
    (playing {}).judges .i0 hdr req ∧ (playing {}).card.noEvent .i0 ∧ (playing f).judges .i0 hdr req ∧
      (playing f).card.noEvent .i0 ∧ f.state = .finished .empty ∧ (playing {}).card.auto.latch = false ∧
      ((after (.load .i0 req .eventFirst w) (playing {})).card.scr .i0).seq.load.map
        (fun l => (l.number, l.entryCount, l.entries.map (·.seconds), l.settings.preroll, l.clamped.getLsbD 0)) =
        some (7, 1, [300], 48, true) :=
  ⟨last_ends, by decide +kernel, by decide +kernel, judges_playing _ rfl, ⟨rfl, rfl⟩, judges_playing _ rfl, ⟨rfl, rfl⟩,
    rfl, rfl, by decide +kernel⟩

/-- A LOAD in progress with entries that fail, with a count of 65, with none, and with an INTERVAL of 5 s. -/
def loading (n : Nat) (es : List RawEntry) : LoadInProgress := ⟨5, {}, 0, n, es, false⟩

/-- An INTERVAL as the show list gives it. -/
def rawInterval (k : Nat) : RawEntry := ⟨2, 1, 0, 0, false, k, ⟨0, .r0, 0⟩, []⟩

/-- A TITLE as the show list gives it. -/
def rawTitle (area offset : Nat) : RawEntry := ⟨1, 1, 0, 0, false, 0, ⟨area, .r1, offset⟩, []⟩

/-- Each kind of failure: an INTERVAL too long, a record in an area the header does not have, one whose read failed four
times; and a count of 65. -/
theorem test_meets_LoadFailureKeepsCopies :
    let s := fun (es : List RawEntry) (bus : List (BusAccess × Nat)) =>
      let s := playing { load := some (loading 1 es) }
      { s with card := { s.card with bus := bus } }
    let fails := fun (es : List RawEntry) (bus : List (BusAccess × Nat)) (f : LoadFailure) =>
      (match (s es bus).card.checkLoad [] hdr .i0 (loading 1 es) with
        | .error g => decide (g = f)
        | .ok _ => false) = true
    (∀ es bus, (s es bus).settled ∧ (s es bus).card.header = some hdr ∧
      ((s es bus).scan.get (.screen .i0)).seeded = true ∧ ((s es bus).card.scr .i0).seq.load = some (loading 1 es)) ∧
      fails [rawInterval 3601] [] (.badRecord .intervalLength (some 0) none none) ∧
      fails [rawTitle 3 0] [] (.areaFault 0) ∧ fails [rawTitle 0 0] [(.titleRead .i0 0, 4)] (.memoryFault 0) ∧
      (s [] [(.titleRead .i0 0, 4)]).card.busFailed (.answerWrite (.screen .i0)) = false ∧
      (loading 1 []).latched = false ∧ 64 < (loading 65 []).entryCount ∧
      (after (.loadComplete .i0 []) (s [rawTitle 3 0] [])).mem.field 0x6240 2 = 8 :=
  ⟨fun _ _ => ⟨⟨rfl, rfl⟩, rfl, rfl, rfl⟩, by decide +kernel⟩

/-- R5, R6, 12.5: the check that each track entry of a reel of 7 frames fails, after a picture track 1 in an unsealed
title; then one that passes. -/
theorem test_track_checks :
    let entry := fun (kind flags sub id duration : Nat) (format : List Byte) =>
      leBytes kind 1 ++ leBytes flags 1 ++ leBytes sub 1 ++ [0] ++ leBytes id 4 ++ leBytes duration 4 ++ format
    let fails := fun (bs : List Byte) =>
      match checkTrack 7 false [⟨.picture, 1, false⟩] [1] bs with | .error k => some k | .ok _ => none
    let none4 : List Byte := [0, 0, 0, 0]
    let eng : List Byte := [0x65, 0x6E, 0x67, 0]
    [fails (entry 5 0 0 2 7 none4), fails (entry 1 0 0 2 7 none4), fails (entry 2 0 2 2 7 (leBytes 44100 4)),
      fails (entry 3 0 4 2 7 eng), fails (entry 3 0 1 2 7 [0x65, 0x4E, 0x67, 0]), fails (entry 3 1 1 2 7 eng),
      fails (entry 3 0 1 2 8 eng), fails (entry 3 0 1 1 7 eng), fails (entry 3 0 1 2 7 eng)] =
      [some .trackKind, some .pictureTrack, some .soundFormat, some .textSlot, some .textLanguage, some .sealedFlag,
        some .trackDuration, some .trackId, none] := by decide +kernel

/-- R8 to R10: the check that each entry fails, in the order of the fields; the last frame of an INTERVAL of 1 s takes a
cue, the place after it does not. -/
theorem test_entry_checks :
    let fails := fun (e : RawEntry) =>
      match (playing {}).card.checkEntry [] hdr .i0 0 {} e with | .error f => some f | .ok _ => none
    let bad := fun (k : Check) => some (LoadFailure.badRecord k (some 0) none none)
    let e := rawInterval 1
    [fails { e with kind := 4, condition := 4 }, fails { e with condition := 2, input := 8 }, fails (rawInterval 0),
      fails { e with cueCount := 9 }, fails { e with cues := [⟨1, 1, 24, 0, 0⟩] },
      fails { e with cues := [⟨1, 3, 23, 7, 0⟩] }, fails { e with cues := [⟨1, 3, 23, 7, 1⟩] }] =
      [bad .entryKind, bad .condition, bad .intervalLength, bad .entryCue, bad .entryCue, bad .entryCue, none] := by
  decide +kernel

/-- A title record as 12.5 lays it out: one reel of 200 frames with a picture track 101 and a sound track 102. -/
def titleWrites (a : Nat) : HostWrites :=
  wr a 0x51A7 8 ++ wr (a + 8) 104 4 ++ wr (a + 12) 24 1 ++ wr (a + 14) 1 1 ++ wr (a + 64) 200 4 ++ wr (a + 68) 2 1 ++
    wr (a + 72) 1 1 ++ wr (a + 76) 101 4 ++ wr (a + 80) 200 4 ++ wr (a + 88) 2 1 ++ wr (a + 90) 2 1 ++
    wr (a + 92) 102 4 ++ wr (a + 96) 200 4 ++ wr (a + 100) 48000 4

/-- A sealed title, with a permit for both its tracks and with none that gives their keys. -/
theorem test_meets_LoadSuccessInstalls_sealed :
    let keys : List PermitKey := [⟨101, 1⟩, ⟨102, 2⟩]
    let s := fun (keys : List PermitKey) =>
      let s := playing { load := some (loading 1 [rawTitle 0 0xA000]) }
      { s with card := { s.card with permits := { clock := 5, clockSet := true, table :=
        [(2, ({ permit 9 .active 0 with keys := keys } : Permit).withCheck)] } } }
    let w := titleWrites 0xA000 ++ wr 0xA00D 1 1 ++ wr 0xA049 1 1 ++ wr 0xA059 1 1
    let t := fun (keys : List PermitKey) => after (.loadComplete .i0 w) (s keys)
    let l := loading 1 [rawTitle 0 0xA000]
    let built : Option Title := match (s keys).card.checkLoad (Mem.hostStore [] w) hdr .i0 l with
      | .ok b => (b.titles.map (·.2))[0]?
      | .error _ => none
    built.map (fun ti => (ti.isSealed, ti.frames)) = some (true, 200) ∧
      (built.map (fun ti => match (s keys).card.permits.choose .i0 ti with
        | .ok x => some x.1
        | .error _ => none)) = some (some 2) ∧
      (((t keys).card.scr .i0).seq.list[0]?).map (·.permit) = some (some 9) ∧
      (FMap.find (t keys).card.permits.table 2).map (fun p => (p.pending, p.users)) = some (1, 1) ∧
      (t keys).card.counter.holding.map (fun r => (r.permit, r.needed)) = [(some 9, 180)] ∧
      ((t []).card.scr .i0).seq.state = .finished .empty ∧ (t []).raised (.screen .i0) .entryRefused = 1 := by
  decide +kernel

/-- An empty list, and one of an INTERVAL of 5 s, of a MARK, and of a TITLE. -/
theorem test_meets_LoadSuccessInstalls :
    let l := fun (es : List RawEntry) => loading es.length es
    let s := fun (es : List RawEntry) => playing { load := some (l es) }
    let builds := fun (es : List RawEntry) (kinds : List EntryKind) =>
      (match (s es).card.checkLoad (Mem.hostStore [] (titleWrites 0xA000)) hdr .i0 (l es) with
        | .ok b => decide (b.entries.map (·.kind) = kinds ∧
            (kinds = [.title 0] → (b.titles[0]?).map (fun x => (x.2.frames, x.2.isSealed)) = some (200, false)))
        | .error _ => false) = true
    let state := fun (es : List RawEntry) =>
      ((after (.loadComplete .i0 (titleWrites 0xA000)) (s es)).card.scr .i0).seq.state
    (∀ es, (s es).acts .i0 hdr ∧ ((s es).scan.get (.screen .i0)).seeded = true ∧
      ((s es).card.scr .i0).seq.load = some (l es)) ∧ (playing {}).card.counter.mayCreate = true ∧
      builds [] [] ∧ builds [rawInterval 5] [.interval 5] ∧
      builds [⟨3, 1, 0, 0, true, 0, ⟨0, .r0, 0⟩, []⟩] [.mark true] ∧
      builds [rawTitle 0 0xA000] [.title 0] ∧ state [] = .finished .empty ∧ state [rawInterval 5] = .ready ∧
      state [⟨3, 1, 0, 0, true, 0, ⟨0, .r0, 0⟩, []⟩] = .ready ∧ state [rawTitle 0 0xA000] = .loading :=
  ⟨fun _ => ⟨acts_playing _, rfl, rfl⟩, by decide +kernel⟩

/-- R9, R26: with input 2 active, the INTERVALs on INPUT_CLEAR 2 and INPUT_SET 3 are PASSED, and the one on INPUT_SET 2
becomes current, or the successor of a MARK; with no input active nothing is armed of the first and the last. -/
theorem test_conditions_at_load :
    let on := fun (condition input : Nat) => { rawInterval 5 with condition := condition, input := input }
    let mark : RawEntry := ⟨3, 1, 0, 0, true, 0, ⟨0, .r0, 0⟩, []⟩
    let run := fun (inputs : BitVec 8) (es : List RawEntry) =>
      let s := playing { load := some (loading es.length es) }
      let q := ((after (.loadComplete .i0 [])
        { s with card := { s.card with auto := { s.card.auto with inputs := inputs } } }).card.scr .i0).seq
      (q.state, q.current, q.armed, q.list.map (·.status))
    run 4 [on 3 2, on 2 3, on 2 2] = (.ready, some 2, none, [.passed, .passed, .armed]) ∧
      run 4 [mark, on 3 2, on 2 2] = (.ready, some 0, some 2, [.armed, .passed, .armed]) ∧
      run 0 [on 2 3, on 2 2] = (.finished .empty, none, none, [.passed, .passed]) ∧
      run 0 [mark, on 2 3] = (.ready, some 0, none, [.armed, .passed]) := by decide +kernel

/-- R18: a latch set while a LOAD is in progress finishes the screen at the LOAD's end, though it was cleared before. -/
theorem test_latched_load_finishes :
    let s := playing { load := some (loading 1 [rawInterval 5]) }
    let t := after (.boothTick 0 ⟨false, []⟩ []) (after (.boothTick 0 ⟨true, []⟩ []) s)
    let u := after (.loadComplete .i0 []) (after (.clearEmergency req) t)
    u.card.auto.latch = false ∧ (u.card.scr .i0).seq.state = .finished .emergency := by decide +kernel

/-- R29: start-when-ready stands, and the link goes. A START that meets readiness there is answered NO_PROJECTOR, 4; the
boundary leaves start-when-ready set, and the next one, with the link UP again, runs the show. -/
theorem test_start_when_ready_outlasts_readiness :
    let q : Sequencer := { inInterval .loading with startWhenReady := true, started := false, position := some ⟨0, 0⟩ }
    let t := after (.frameBoundary .i0) (after (.start .i0 req .eventFirst) (machine (card .running { seq := q })))
    let up := { t with card := t.card.modPort .i0 (fun p => { p with link := .up }) }
    t.mem.field 0x6240 2 = 4 ∧ (t.card.scr .i0).seq.state = .ready ∧ (t.card.scr .i0).seq.startWhenReady = true ∧
      (bounded up).state = .running ∧ (bounded t).state = .ready ∧ (bounded t).startWhenReady = false := by
  decide +kernel

/-- START in every state, with the latch and the link as each clause has them; and after the readiness of its boundary,
with an INTERVAL, and with a TITLE on a link that is DOWN. -/
theorem test_meets_StartJudged :
    let x := { filmScreen .loading [.missing 0 0 0 10, .missing 0 1 0 20] with
      port := {}, seq := { inFilm .loading with position := some ⟨0, 0⟩ } }
    let begun := fun (s : State) =>
      let t := after (.start .i0 req .eventFirst) s
      ((t.card.scr .i0).seq.state, t.raised (.screen .i0) .stateChange, t.mem.field 0x6240 2)
    (playing (inInterval .loading)).card.readyTest .i0 = true ∧ (machine (card .running x)).card.readyTest .i0 = true ∧
      begun (playing (inInterval .loading)) = (.running, 2, 1) ∧ begun (machine (card .running x)) = (.ready, 1, 4) ∧
    (∀ st, (playing (inInterval st)).judges .i0 hdr req ∧ (playing (inFilm st)).judges .i0 hdr req) ∧
      (playing (inInterval .ready)).card.auto.latch = false ∧
      ((playing (inInterval .ready)).card.scr .i0).port.link = .up ∧ (inInterval .ready).current = some 0 ∧
      (inFilm .ready).title ≠ none ∧ (playing (inFilm .loading)).card.readyTest .i0 = false :=
  ⟨by decide +kernel, by decide +kernel, by decide +kernel, by decide +kernel,
    fun _ => ⟨judges_playing _ rfl, judges_playing _ rfl⟩, rfl, rfl, rfl, by decide, by decide +kernel⟩

/-- HOLD with a fault hold due, with one due at an entry's end, in STARVED and in HELD; and either side of a completion
that ends the show, and after the starvation limit. -/
theorem test_meets_HoldHoldsScreen :
    let q : Sequencer := { inFilm .running with faultHoldDue := true }
    let e : Sequencer := { q with position := some ⟨1, 19⟩, inProgress := true }
    let held := fun (q : Sequencer) => ((after (.hold .i0 req .requestFirst) (playing q)).card.scr .i0).seq
    let out : Sequencer := { inFilm (.starved .starve) with starveCount := 239 }
    let late := fun (q : Sequencer) =>
      let t := after (.hold .i0 req .eventFirst) (playing q)
      ((t.card.scr .i0).seq.state, t.mem.field 0x6240 2)
    let early := after (.hold .i0 req .requestFirst) (playing lastFrame)
    (playing lastFrame).card.endsShow .i0 ∧ out.inProgress = false ∧ (playing out).card.limitReached .i0 = true ∧
      late lastFrame = (.finished .complete, 3) ∧ late out = (.finished .starvedOut, 3) ∧
      early.mem.field 0x6240 2 = 1 ∧ lastFrame.handled = false ∧ (bounded early).state = .finished .complete ∧
    (∀ q, q.load = none → (playing q).judges .i0 hdr req) ∧ (playing q).card.noEvent .i0 ∧ q.advance ≠ .entryEnd ∧
      e.advance = .entryEnd ∧ (held q).state = .held .fault ∧ (held e).state = .held .operator ∧
      (held (inFilm (.starved .starve))).state = .held .operator ∧ (held (inFilm (.held .mark))).state = .held .mark :=
  ⟨last_ends, rfl, by decide +kernel, by decide +kernel, by decide +kernel, by decide +kernel, rfl, by decide +kernel,
    fun _ => judges_playing _, ⟨rfl, rfl⟩, by decide +kernel⟩

/-- An INTERVAL, a TITLE whose recovery test fails, and one whose queues hold what it asks. -/
theorem test_meets_ResumeAndContinueRun :
    let x := filmScreen (.held .operator) [.missing 0 0 4 6, .missing 0 1 0 20]
    (playing (inInterval (.held .fault))).judges .i0 hdr req ∧ (inInterval (.held .fault)).current = some 0 ∧
      (playing (inFilm (.held .operator))).card.recoveryTest .i0 = false ∧
      (machine (card .running x)).card.recoveryTest .i0 = true ∧ headHolds x.pictureQueue 0 0 4 = true ∧
      x.seq.title ≠ none ∧
      ((after (.continueHeld .i0 req) (playing (inInterval (.held .fault)))).card.scr .i0).seq.state = .running ∧
      ((after (.resume .i0 req) (machine (card .running x))).card.scr .i0).seq.inProgress = true :=
  ⟨judges_playing _ rfl, rfl, by decide +kernel⟩

/-- HELD at a MARK that was reached: RESUME and, where a fault held the screen, CONTINUE pass it to the armed TITLE,
whose queues hold what the recovery test asks or do not, and finish the show where nothing is armed. -/
theorem test_meets_ResumeAndContinueRun_mark :
    let q := fun (k : HoldKind) => ({ inFeature (.held k) true ⟨0, 0⟩ with
      list := (atMark true).list.take 1 ++ (inFeature .ready true ⟨0, 0⟩).list.drop 1 } : Sequencer)
    let go := fun (c : Instr) (s : State) => ((after c s).card.scr .i0).seq
    let none1 : Sequencer := { q .mark with armed := none }
    (∀ k l, (licensed (q k) l).judges .i0 hdr req) ∧ (q .mark).shows 1 ∧ (q .mark).settled = true ∧
      (q .mark).inProgress = false ∧ (q .mark).list[0]?.map (·.kind) = some (.mark true) ∧
      (go (.resume .i0 req) (licensed (q .mark) (nextReel 1))).inProgress = true ∧
      books (after (.resume .i0 req) (licensed (q .mark) (nextReel 1))) =
        ([(3, .opened, none), (4, .opened, none)], [1, 1]) ∧
      (go (.continueHeld .i0 req) (licensed (q .fault) (nextReel 1))).current = some 1 ∧
      (go (.resume .i0 req) (licensed (q .mark) [])).state = .starved .starve ∧
      (go (.resume .i0 req) (licensed none1 [])).state = .finished .complete :=
  ⟨fun _ _ => judges_licensed _ _ rfl, .inl (by decide +kernel), by decide +kernel⟩

/-- The feature's screen at a state, with its books after a request there. -/
def booksAfter (c : Instr) (st : ScreenState) (started : Bool) :
    List (U32 × RecordState × Option EndCause) × List Nat :=
  books (after c (licensed (inFeature st started ⟨0, 0⟩) []))

/-- A started TITLE and one that had not started, skipped (R28, R155), and one whose delivered last frame completes at
the boundary of the SKIP (R47). -/
theorem test_meets_SkipMovesOn_records :
    let e := licensed { inFeature .running true ⟨1, 199⟩ with inProgress := true } []
    let last := { e with card := e.card.modPort .i0 (fun p => { p with lastDelivered := true }) }
    booksAfter (.skip .i0 req) .running true = ([(3, .closed, some .skipped), (4, .armed, none)], [0, 1]) ∧
      booksAfter (.skip .i0 req) .ready false = ([(4, .armed, none)], [0, 1]) ∧
      books (after (.skip .i0 req) last) = ([(3, .closed, some .complete), (4, .armed, none)], [0, 1]) :=
  ⟨by decide +kernel, by decide +kernel, by decide +kernel⟩

/-- The same with an armed successor that is dropped, stopped and unloaded (R28, R42, R43). -/
theorem test_meets_stop_and_unload_records :
    let unload : Instr := .unload .i0 req .requestFirst
    booksAfter (.stop .i0 req) .running true = ([(3, .closed, some .stopped)], [0, 0]) ∧
      booksAfter (.stop .i0 req) .ready false = ([], [0, 0]) ∧
      booksAfter unload (.held .operator) true = ([(3, .closed, some .unloaded)], [0, 0]) ∧
      booksAfter unload .loading false = ([], [0, 0]) ∧
      booksAfter unload (.finished .complete) false = ([(3, .armed, none), (4, .armed, none)], [1, 1]) :=
  ⟨by decide +kernel, by decide +kernel, by decide +kernel, by decide +kernel, by decide +kernel⟩

/-- READY, HELD, RUNNING and STARVED with an INTERVAL armed; the same with a TITLE armed, whose first frames the queues
hold or do not; and nothing armed. -/
theorem test_meets_SkipMovesOn :
    let ti : Sequencer := { inInterval .running with
      titles := [film], list := intervals.take 1 ++ [{ kind := .title 0, condition := .always, cues := [] }] }
    let skipped := fun (st : ScreenState) (q : List QueueItem) =>
      ((after (.skip .i0 req) (machine (card .running
        { seq := { ti with state := st }, port := { link := .up }, pictureQueue := q, soundQueue := q }))).card.scr
          .i0).seq
    let whole := [QueueItem.missing 1 0 0 10, .missing 1 1 0 20]
    (∀ q, q.load = none → (playing q).judges .i0 hdr req) ∧ ti.armed = some 1 ∧ (ti.list[1]?).map (·.kind) =
      some (.title 0) ∧ ti.titles[0]? = some film ∧ (skipped .ready whole).state = .ready ∧
      (skipped .ready []).state = .loading ∧ (skipped .running whole).inProgress = true ∧
      (skipped .running []).state = .starved .starve ∧ (skipped (.starved .reposition) whole).state = .running ∧
      (skipped (.starved .reposition) (whole.take 1)).state = .starved .starve ∧
    (playing (inInterval .ready)).judges .i0 hdr req ∧ (playing (inInterval (.held .mark))).judges .i0 hdr req ∧
      hdr.apart (.screen .i0) ∧ (inInterval .ready).settled = true ∧ (inInterval .ready).armed = some 1 ∧
      (inFilm (.held .fault)).armed = none ∧ (inFilm (.held .fault)).settled = true ∧
      ((after (.skip .i0 req) (playing (inInterval (.held .mark)))).card.scr .i0).seq.state = .held .operator :=
  ⟨fun _ => judges_playing _, rfl, rfl, rfl, by decide +kernel, by decide +kernel, by decide +kernel, by decide +kernel,
    by decide +kernel, by decide +kernel, judges_playing _ rfl, judges_playing _ rfl, apart_hdr, rfl, rfl, rfl, rfl,
    by decide +kernel⟩

/-- The last reel the title has, and the first it does not; a successor settled and one that a jump settles. -/
theorem test_meets_ReelJumpRepositions :
    (∀ q, q.load = none → (playing q).judges .i0 hdr req) ∧ (inFilm .running).current = some 0 ∧
      (inFilm .running).title = some film ∧ (inFilm .running).advance = .none ∧
      ({ inFilm (.held .fault) with inProgress := true } : Sequencer).advance = .within ∧
      (1 : Byte).toNat < film.reels.length ∧ film.reels.length ≤ (2 : Byte).toNat ∧
      ((after (.reelJump .i0 req 1) (playing { inFilm .running with settled := false })).card.scr .i0).seq.settled =
        true := ⟨fun _ => judges_playing _, rfl, rfl, rfl, by decide +kernel⟩

/-- A jump over a reel end, with the feeds it sets and a cue it releases; and one at the entry's end, which is refused,
3, the entry ending COMPLETE (R41, R47). -/
theorem test_meets_ReelJumpRepositions_ends :
    let at1 := fun (p : Position) => ({ inFeature .running true p with inProgress := true } : Sequencer)
    let s := licensed (at1 ⟨0, 99⟩) []
    let x : Screen := { s.card.scr .i0 with
      currentFeeds := some (feedsFrom feature [] 0), text := { queue := [5] }, tallies := [1] }
    let s := { s with card := { s.card with
      screens := s.card.screens.set .i0 x, pool := { held := [(5, cueRecord 0 (textCue 0 9))] } } }
    let t := after (.reelJump .i0 req 1) s
    let u := after (.reelJump .i0 req 1) (licensed (at1 ⟨1, 199⟩) [])
    (at1 ⟨0, 99⟩).advance = .reelEnd 0 ∧ (at1 ⟨1, 199⟩).advance = .entryEnd ∧ (at1 ⟨1, 199⟩).settled = true ∧
      (t.card.scr .i0).seq.position = some ⟨1, 0⟩ ∧ t.raised (.screen .i0) .faultTally = 1 ∧
      (t.card.scr .i0).currentFeeds.map (fun f => (f.picture, f.sound)) = some ({ reel := 1 }, { reel := 1 }) ∧
      (t.card.scr .i0).text.queue = [] ∧ t.card.pool.held = [] ∧ u.mem.field 0x6240 2 = 3 ∧
      (u.card.scr .i0).seq.current = some 1 ∧
      books u = ([(3, .closed, some .complete), (4, .armed, none)], [0, 1]) := by decide +kernel

theorem test_meets_StopFinishesScreen :
    let s := machine { card .running { seq := inFilm .running } with counter := { holding := [record 3 .opened] } }
    s.judges .i0 hdr req ∧ hdr.apart (.screen .i0) ∧ (inFilm .running).current = some (record 3 .opened).entry ∧
      (inFilm .running).started = true ∧
      (after (.stop .i0 req) s).card.counter.holding.map (·.endCause) = [some .stopped] :=
  ⟨⟨⟨⟨rfl, rfl, rfl, rfl⟩, rfl, rfl⟩, rfl, rfl, (fun _ ht => nomatch ht)⟩, apart_hdr, rfl, rfl, by decide +kernel⟩

theorem test_meets_UnloadDarkensScreen :
    (playing {}).judges .i0 hdr req ∧ (playing (inFilm (.held .operator))).judges .i0 hdr req ∧
      (playing (inFilm (.held .operator))).card.noEvent .i0 ∧ hdr.apart (.screen .i0) ∧
      ((after (.unload .i0 req .eventFirst) (playing (inFilm (.held .operator)))).card.scr .i0).seq = {} ∧
      (playing lastFrame).card.endsShow .i0 ∧
      ((after (.unload .i0 req .eventFirst) (playing lastFrame)).card.scr .i0).seq = {} ∧
      (after (.unload .i0 req .eventFirst) (playing lastFrame)).raised (.screen .i0) .entryEnded = 1 :=
  ⟨judges_playing _ rfl, judges_playing _ rfl, ⟨rfl, rfl⟩, apart_hdr, by decide +kernel, last_ends, by decide +kernel⟩

/-- The SET requests' hypotheses, with the level at its bound and one above it; a fade over ten seconds, at once and on
a muted screen; the delay changed at once, by a dip, and by a DOWN that ends with the request. -/
theorem test_meets_SetRequestsStoreSettings :
    let faded := fun (q : Sequencer) (fade : U32) (level : Nat) =>
      ((after (.setLevel .i0 req fade (wr 0x4146 level 2)) (playing q)).card.scr .i0).sound
    let moved := fun (x : Sound) => ((after (.setLipsync .i0 req (wr 0x4148 480 2))
      (machine (card .running { seq := inFilm .running, sound := x }))).card.scr .i0).sound
    (playing {}).judges .i0 hdr req ∧
      (after (.setLevel .i0 req 0 (wr 0x4146 16384 2)) (playing {})).mem.field 0x6240 2 = 1 ∧
      (after (.setLevel .i0 req 0 (wr 0x4146 16385 2)) (playing {})).mem.field 0x6240 4 = 2 ∧
      (after (.setLevel .i0 req 0 (wr 0x4146 16385 2)) (playing {})).mem.field 0x6244 2 = 32 ∧
      (faded (inFilm .running) 10000 16384).step = 1 ∧ (faded (inFilm .running) 10 16384).step = 35 ∧
      (faded (inFilm .running) 0 16384).step = 16384 ∧ (faded (inFilm .running) 0 16384).target = 16384 ∧
      (faded (inFilm .ready) 10 16384).target = 0 ∧ (faded (inFilm .ready) 10 16384).level = 16384 ∧
      (moved {}).delay = 480 ∧ (moved { master := 960, target := 960 }).step = 10 ∧
      (moved { master := 960, target := 960 }).dip = .down ∧ (moved { dip := .down, level := 9600 }).delay = 480 ∧
      (moved { dip := .down, level := 9600 }).step = 100 ∧ (moved { dip := .down, level := 9600 }).dip = .up :=
  ⟨judges_playing _ rfl, by decide +kernel⟩

/-- R47, R88: where the completion of the frame in progress ends the entry, its HELD track is settled before KEY_ANSWER
is judged. -/
theorem test_key_answer_after_entry_end :
    let q : Sequencer := { inFilm .running with position := some ⟨1, 19⟩, inProgress := true }
    let s := machine (card .running { seq := q, port := { link := .up }, textKeys := [⟨103, 1, .held, false⟩] })
    let t := after (.keyAnswer .i0 req 103 2) s
    q.advance = .entryEnd ∧ ({ q with position := some ⟨0, 9⟩ } : Sequencer).advance = .reelEnd 0 ∧
      t.mem.field 0x6240 2 = AnswerResult.refusedState.code ∧ (t.card.scr .i0).textKeys = [] := by decide +kernel

/-- A HELD track, with no permit that lends its key and with one. -/
theorem test_meets_KeyAnswerSettlesTrack :
    let x : Screen := { seq := inFilm .running, port := { link := .up }, textKeys := [⟨103, 0, .held, false⟩] }
    let s := machine { card .running x with permits := { table := [(0, permit 9 .active 0)], clockSet := true } }
    s.judges .i0 hdr req ∧ (textKeyOf x.textKeys 103).map (·.state) = some .held ∧ textKeyOf x.textKeys 104 = none ∧
      ((after (.keyAnswer .i0 req 103 1) s).card.scr .i0).textKeys = [⟨103, 0, .lent 9 9, true⟩] ∧
      ((after (.keyAnswer .i0 req 103 2) s).card.scr .i0).textKeys = [⟨103, 0, .declined, false⟩] :=
  ⟨⟨⟨⟨rfl, rfl, rfl, rfl⟩, rfl, rfl⟩, rfl, rfl, (fun _ ht => nomatch ht)⟩, rfl, rfl, by decide +kernel⟩

/-- R57, R87: a track that KEY_ANSWER has lent a key is judged at the next tick: no chunk of it can be chosen before. -/
theorem test_lent_track_waits_for_tick :
    let fresh : List TextKey := [⟨103, 0, .lent 9 9, true⟩]
    let x : Screen := { seq := inFilm .running, port := { link := .up }, textKeys := fresh }
    ((after (.boothTick 0 ⟨false, []⟩ []) (machine (card .running x))).card.scr .i0).textKeys =
      [⟨103, 0, .lent 9 9, false⟩] := by
  decide +kernel

/-- The codes next to each sheet's set. -/
theorem test_meets_UnknownRequestAnswered :
    (playing {}).judges .i0 hdr req ∧ (playing {}).takes .booth hdr req ∧ (playing {}).takes .key hdr req ∧
      ¬ (1 ≤ (15 : U16).toNat ∧ (15 : U16).toNat ≤ 14) ∧ (49 : U16).toNat ≠ 48 ∧
      ¬ (32 ≤ (36 : U16).toNat ∧ (36 : U16).toNat ≤ 35) :=
  ⟨judges_playing _ rfl, ⟨⟨rfl, rfl, rfl, rfl⟩, rfl, rfl⟩, ⟨⟨rfl, rfl, rfl, rfl⟩, rfl, rfl⟩, by decide, by decide,
    by decide⟩

/-- An argument block as 12.7 lays it out: permit 5 for screen 0, window 1 to 2, 500 per mille, one key for track 9. -/
def block : List Byte :=
  let head := leBytes 5 4 ++ [1, 1] ++ leBytes 0 2 ++ leBytes 0x51A7 8 ++ leBytes 1 8 ++ leBytes 2 8 ++ leBytes 500 2 ++
    [0, 0]
  let key := leBytes 9 4 ++ leBytes 0 4 ++ leBytes 77 16
  head ++ leBytes (checkValue (head ++ key)).toNat 4 ++ key ++ List.replicate 184 0

/-- R75: the first of the checks that a block fails, in their order, each with the check value made anew. -/
theorem test_permit_checks_in_order :
    let made := fun (off v w : Nat) =>
      let b := block.take off ++ leBytes v w ++ block.drop (off + w)
      b.take 36 ++ leBytes (checkValue (b.take 36 ++ slice b 40 (24 * min 7 (fieldAt b 5 1)))).toNat 4 ++ b.drop 40
    let fails := fun (b : List Byte) => match permitOf b with | .error k => some k.code | .ok _ => none
    [fails (block.take 36 ++ leBytes 0 4 ++ block.drop 40), fails (made 0 0 4), fails (made 4 16 1),
      fails (made 24 1 8), fails (made 32 499 2), fails (made 5 0 1), fails (made 40 0 4), fails block] =
      [some 21, some 22, some 23, some 24, some 25, some 26, some 26, none] := by decide +kernel

/-- PERMIT_ADD: a block that fails, and one that passes with the table empty, holding its id, and full. -/
theorem test_meets_PermitAddJudged :
    (playing {}).takes .key hdr req ∧ block.length = 248 ∧
      (match permitOf block with | .ok p => decide (p.id = 5 ∧ p.perMille = 500) | .error _ => false) = true ∧
      (match permitOf [] with | .error k => decide (k = .permitId) | .ok _ => false) = true ∧
      (after (.permitAdd req block) (playing {})).card.permits.table.map (·.1) = [0] ∧
      (∀ i, i < 32 → FMap.find ((List.range 32).map (fun i => (i, permit (BitVec.ofNat 32 (100 + i)) .active 0))) i ≠
        none) :=
  ⟨⟨⟨rfl, rfl, rfl, rfl⟩, rfl, rfl⟩, by decide +kernel⟩

/-- A table with a permit of each kind of standing. -/
def stocked : State :=
  machine { card .running {} with permits := { table :=
    [(0, permit 1 .active 0), (1, permit 2 .active 1), (2, permit 3 .retiring 1), (31, permit 4 .damaged 0)] } }

theorem test_meets_PermitRemovalJudged :
    stocked.takes .key hdr req ∧ (∀ y ∈ stocked.card.permits.table, y.2.id ≠ 5) ∧
      FMap.Sorted stocked.card.permits.table ∧
      (∀ id : Fin 4, (stocked.card.permits.table.filter (fun y => y.2.id.toNat == id.val + 1)).length = 1) ∧
      (after (.permitRemove req 2) stocked).card.permits.table.map (·.2.state) =
        [.active, .retiring, .retiring, .damaged] ∧
      (after (.permitWipe req) stocked).card.permits.table.map (·.1) = [1, 2] := by
  refine ⟨⟨⟨rfl, rfl, rfl, rfl⟩, rfl, rfl⟩, by decide +kernel, ?_, by decide +kernel⟩
  simp [FMap.Sorted, stocked, machine, card]

theorem test_meets_ClockTakesTimeAndCounts :
    let s := machine { card .running {} with permits := { clock := 1000, clockSet := true } }
    (playing {}).takes .key hdr req ∧ s.takes .key hdr req ∧
      (1000 ≤ (1600 : U64).toNat + 600 ∧ (1600 : U64).toNat ≤ 1000 + 600) ∧ ¬ ((1601 : U64).toNat ≤ 1000 + 600) ∧
      (after .boothClockSecond s).card.permits.clock = 1001 :=
  ⟨⟨⟨rfl, rfl, rfl, rfl⟩, rfl, rfl⟩, ⟨⟨rfl, rfl, rfl, rfl⟩, rfl, rfl⟩, by decide, by decide, by decide +kernel⟩

theorem test_meets_ClearEmergencyJudged :
    let a : Automation := { latch := true }
    let s := machine { card .running {} with auto := a }
    (playing {}).takes .booth hdr req ∧ s.takes .booth hdr req ∧ a.emergencySample = false ∧
      (after (.clearEmergency req) s).card.auto.latch = false :=
  ⟨⟨⟨rfl, rfl, rfl, rfl⟩, rfl, rfl⟩, ⟨⟨rfl, rfl, rfl, rfl⟩, rfl, rfl⟩, rfl, by decide +kernel⟩

/-- A slot's directory entry of a chunk of a track of screen 0's film, sequence 3, with one unit, 64 bytes of area
`area`. -/
def chunk (slot : Nat) (track : U32) (area : Nat) (check : U32) (last : Bool) : DirEntry :=
  { slot := slot, gen := 1
    header := ⟨⟨area, .r1, 0x9000⟩, 5, track, 3, 64, check, 0, 0, 1, false, last⟩ }

/-- The film with a text track of slot 1 and an automation track beside the picture and sound of its first reel. -/
def filmWithText : Title :=
  { film with reels := film.reels.modify 0 (fun r =>
      { r with tracks := r.tracks ++ [⟨.text .i1 [0x65, 0x6E, 0x67], 103, false⟩, ⟨.automation, 104, false⟩] }) }

/-- Screen 0 in that film with a feed at sequence 3, frame 4, and a directory, perhaps with slot 0 in fetch. -/
def fetching (k : FeedKind) (es : List DirEntry) (f : Option Fetch) : State :=
  machine { card .running { seq := { inFilm .running with titles := [filmWithText] }, port := { link := .up }
                            currentFeeds := some (({} : Feeds).set k { sequence := 3, frame := 4 })
                            text := { selection := { overlay := some .i1 } } } with
    directory := es, fetch := f }

/-- Slot 0's answer word lies apart from the places of SLOT_ANSWERED and of screen 0's AREA_FAULT. -/
theorem slot_apart : spansApart (hdr.slotSpan 0) (hdr.noticeSpan .booth .slotAnswered) ∧
    spansApart (hdr.slotSpan 0) (hdr.noticeSpan (.screen .i0) .areaFault) :=
  ⟨spansApart_of_le (by decide +kernel) (by decide +kernel) (by decide +kernel),
    spansApart_of_le (by decide +kernel) (by decide +kernel) (by decide +kernel)⟩

/-- R58: of the next picture and sound chunks of one screen, the sound's goes first where its feed has fewer frames
queued, and the picture's where both have as many. -/
theorem test_fetch_choice_order :
    let s := fetching .picture [chunk 2 102 0 0 false, chunk 5 101 0 0 false] none
    let feed : Feed := { sequence := 3, frame := 4 }
    let x := { s.card.scr .i0 with currentFeeds := some ((({} : Feeds).set .picture feed).set .sound feed) }
    let chosen := fun (x : Screen) => ({ s.card with screens := ⟨x, {}, {}, {}⟩ } : Card).chooseFetch.map (·.1.slot)
    chosen x = some 5 ∧ chosen { x with pictureQueue := [.missing 0 0 3 1] } = some 2 := by decide +kernel

/-- A chunk that passes its area check, and one that names an area the header does not have. -/
theorem test_meets_FetchStartsOnFirstChoice :
    let s := fetching .picture [chunk 0 101 0 0 false] none
    let u := fetching .picture [chunk 0 101 1 0 false] none
    (spansApart (hdr.slotSpan 0) (hdr.noticeSpan .booth .slotAnswered) ∧
      spansApart (hdr.slotSpan 0) (hdr.noticeSpan (.screen .i0) .areaFault)) ∧
      s.calm ∧ s.card.active = true ∧ s.card.header = some hdr ∧ s.card.fetch = none ∧
      s.card.chooseFetch.map (·.1) = some (chunk 0 101 0 0 false) ∧
      u.card.chooseFetch.map (·.1) = some (chunk 0 101 1 0 false) ∧
      hdr.grants 0 0x9000 64 (Ring.max .r1 .r1) false = true ∧ hdr.grants 1 0x9000 64 (Ring.max .r1 .r1) false = false ∧
      (after .fetchStart s).card.fetch = some ⟨0, 1, 0, 0⟩ ∧ (after .fetchStart u).mem.field 0x8008 8 = 0x100000006 :=
  ⟨slot_apart, ⟨rfl, rfl, rfl, rfl⟩, rfl, rfl, rfl, by decide +kernel⟩

/-- A chunk's data: a directory of one unit at offset 16, `u`; the offer word is written with it. -/
def chunkWrites (frame length : Nat) (check : U32) (u : List Byte) : HostWrites :=
  wr 0x8000 1 4 ++ wr 0x9000 frame 4 ++ wr 0x9004 16 4 ++ wr 0x9008 length 4 ++ wr 0x900C check.toNat 4 ++
    u.zipIdx.map (fun x => (BitVec.ofNat 64 (0x9010 + x.2), x.1))

/-- Slot 0 in fetch of that chunk, its check right, with a feed and the rest of the directory. -/
def completing (k : FeedKind) (track : U32) (last : Bool) (w : HostWrites) (rest : List DirEntry) : State :=
  fetching k (chunk 0 track 0 (checkValue ((Mem.hostStore [] w).readBytes 0x9000 64)) last :: rest)
    (some { slot := 0, gen := 1 })

/-- A unit of a picture chunk at the expected frame with an offered duplicate, one of a LAST sound chunk after a gap, a
chunk with no frame to come, and one whose check fails. -/
theorem test_meets_FetchCompleteTakesUnit :
    let run := fun (k : FeedKind) (track : U32) (last : Bool) (frame : Nat) (rest : List DirEntry) =>
      let w := chunkWrites frame 48 0 []
      after (.fetchComplete w) (completing k track last w rest)
    let w := chunkWrites 4 48 0 []
    let s := completing .picture 101 false w []
    let data := (s.mem.hostStore w).readBytes (hdr.locate ⟨0, .r1, 0x9000⟩) 64
    spansApart (hdr.slotSpan 0) (hdr.noticeSpan .booth .slotAnswered) ∧
      s.calm ∧ s.card.active = true ∧ s.card.fetch = some { slot := 0, gen := 1 } ∧
      s.card.dirEntry 0 = some (chunk 0 101 0 (checkValue data) false) ∧
      BitVec.ofNat 32 ((s.mem.hostStore w).field (hdr.slotAddr 0) 4) = 1 ∧
      unitDirectory data 1 = some [⟨4, 16, 48, 0⟩] ∧ filmWithText.findTrack 101 = some (0, ⟨.picture, 101, false⟩) ∧
      4 + 1 < (filmWithText.reels.map (·.duration)).getD 0 0 ∧
      ((run .picture 101 false 4 [chunk 2 101 0 0 false]).card.scr .i0).pictureQueue.length = 1 ∧
      (run .picture 101 false 4 [{ chunk 2 101 0 5 false with gen := 9 }]).mem.field 0x8088 8 = 0x900000004 ∧
      ((run .sound 102 true 6 []).card.scr .i0).soundQueue.map (·.frames) = [2, 1, 3] ∧
      (run .picture 101 false 3 []).mem.field 0x8008 8 = 0x100000009 ∧
      (after (.fetchComplete w) (fetching .picture [chunk 0 101 0 0 false] (some { slot := 0, gen := 1 }))).mem.field
        0x8008 8 = 0x100000008 :=
  ⟨slot_apart.1, ⟨rfl, rfl, rfl, rfl⟩, rfl, by decide +kernel⟩

set_option maxRecDepth 20000 in
/-- A text item in frames 8 to 18 with fades 6 and 7, an automation item at frame 6, and a unit whose check fails. -/
theorem test_meets_FetchTakesTextUnits :
    let text := leBytes 1 2 ++ [0, 0] ++ leBytes 77 4 ++ leBytes 8 4 ++ leBytes 18 4 ++ [6, 7, 2, 1, 1, 0x41]
    let auto := leBytes 1 2 ++ [0, 0] ++ leBytes 6 4 ++ [3, 0] ++ leBytes 5 2 ++ leBytes 6 2 ++ [0, 0]
    let run := fun (k : FeedKind) (track : U32) (u : List Byte) (check : U32) =>
      let w := chunkWrites 4 u.length check u
      after (.fetchComplete w) (completing k track false w [])
    (textUnit text).map (·.map (fun i => (i.inFrame, i.outFrame, i.fadeIn, i.fadeOut))) = some [(8, 18, 6, 7)] ∧
      (automationUnit auto).map (·.map (·.frame)) = some [6] ∧
      ((run (.text .i1) 103 text (checkValue text)).card.pool.held.map (fun x => match x.2.body with
        | .text q => (q.fadeIn, q.fadeOut)
        | _ => (0, 0))) = [(6, 4)] ∧
      (run .automation 104 auto (checkValue auto)).card.pool.free.head? = some 1 ∧
      (run .automation 104 auto (checkValue auto)).mem.field 0x8008 8 = 0x100000001 ∧
      ((run .automation 104 auto 1).card.scr .i0).tallies[9]? = some 1 := by decide +kernel

/-- A screen with one record of the pool on its queue. -/
theorem test_meets_CuePoolKeepsReserves :
    let r : CueRecord := { owner := .i0, entry := 0, reel := 0, arrival := 0, body := .automation ⟨6, 3, 5, 6⟩ }
    let p : CuePool := { free := List.range' 1 511, held := [(0, r)] }
    let s := machine { card .running { seq := inFilm .running, text := { queue := [0] } } with pool := p }
    s.card.poolLaw ∧ (∃ t, exec (.stop .i0 req) s = .next t) ∧
      (after (.stop .i0 req) s).card.pool.free.length = 512 := by
  refine ⟨⟨?_, List.nodup_range', by decide +kernel, ?_, by decide +kernel, ?_⟩, ⟨_, rfl⟩,
    by decide +kernel⟩
  · simp [FMap.Sorted, machine, card]
  · intro sc
    cases sc <;> exact ⟨by decide +kernel, by decide +kernel⟩
  · unfold CuePool.reservesKept; decide +kernel

/-- A pool with one record held, taken by a screen with less than its reserve, and given back. -/
theorem test_pool_takes_and_gives_back :
    let r : CueRecord := { owner := .i0, entry := 0, reel := 0, arrival := 0, body := .automation ⟨6, 3, 5, 6⟩ }
    let p : CuePool := { free := List.range' 1 511, held := [(0, r)] }
    (∀ n ∈ p.free, FMap.find p.held n = none) ∧ (Idx4.all.map (fun s => 48 - p.heldBy s)).sum ≤ p.free.length ∧
      p.mayTake .i0 = true ∧ (p.take r).map (·.1) = some 1 ∧ FMap.find p.held 0 = some r ∧
      (p.giveBack 0).free.head? = some 0 := by decide +kernel

/-- A new offer, one that stands, one that goes while in fetch and one withdrawn while in use. -/
theorem test_meets_OfferScanAndJudging :
    let s := fetching .picture [] none
    let m := Mem.hostStore [] (wr 0x8000 1 4 ++ wr 0x8020 5 4 ++ wr 0x8024 101 4)
    let c := fun (st : Standing) (gen : U32) => { s.card with directory := [{ chunk 0 101 0 0 false with
      standing := st, gen := gen }] }
    s.calm ∧ hdr.scannedSheets.all (fun sh => (s.scan.get sh).seeded) = true ∧
      ((s.scan.get .booth).place .memoryFault).retry = false ∧ s.card.slots.all (fun x => !x.seedPending) = true ∧
      (s.card.refreshSlot m hdr 0).directory.map (fun e => (e.gen, e.header.load, e.header.track)) = [(1, 5, 101)] ∧
      (c .offered 1).refreshSlot m hdr 0 = c .offered 1 ∧
      ((c .inFetch 2).refreshSlot m hdr 0).directory.map (·.changed) = [true] ∧
      ((c .inUse 2).refreshSlot m hdr 0).directory = [] ∧
      s.card.judge (chunk 0 101 0 0 false).header =
        .candidate ⟨.i0, .picture, true, 0, ⟨.picture, 101, false⟩⟩ ∧
      s.card.judge { (chunk 0 101 0 0 false).header with load := 4 } = .answer .stale :=
  ⟨⟨rfl, rfl, rfl, rfl⟩, by decide +kernel⟩

/-- R57, R86: a chunk of a sealed TEXT track that no permit lends a key, with three tracks held and with four. -/
theorem test_tick_judges_keyless_text :
    let ti : Title := { filmWithText with
      isSealed := true, reels := filmWithText.reels.map (fun r =>
        { r with tracks := r.tracks.map (fun (k : Track) => { k with isSealed := k.id == 103 }) }) }
    let e := { chunk 0 103 0 0 false with header := { (chunk 0 103 0 0 false).header with isSealed := true } }
    let held := fun (n : Nat) =>
      (List.range n).map (fun i => (⟨BitVec.ofNat 32 (200 + i), 0, .held, false⟩ : TextKey))
    let s := fun (n : Nat) => machine { card .running { (fetching (.text .i1) [] none).card.scr .i0 with
      seq := { inFilm .running with titles := [ti] }, textKeys := held n } with directory := [e] }
    let tick := fun (n : Nat) =>
      let t := after (.boothTick 0 ⟨false, []⟩ (wr 0x8000 1 4 ++ wr 0x8020 5 4 ++ wr 0x8024 103 4)) (s n)
      (((t.card.scr .i0).textKeys.drop n).map (fun (k : TextKey) => (k.track, k.state)), t.card.directory.length,
        t.raised (.screen .i0) .keyWanted, t.mem.field 0x8008 8)
    (s 3).card.judge e.header = .candidate ⟨.i0, .text .i1, true, 0, ⟨.text .i1 [0x65, 0x6E, 0x67], 103, true⟩⟩ ∧
      tick 3 = ([(103, .held)], 1, 1, 0) ∧ tick 4 = ([(103, .declined)], 0, 1, 0x100000002) := by decide +kernel

/-- A head reference of a slot in use, whose offer stands or has changed, and a read of it at its end. -/
theorem test_meets_UnitReadsStageUnits :
    let x := { filmScreen .running [.ref (unitRef 4)] with
      sound := { staged := some ⟨unitRef 4, ⟨0, .r1, 0x9000⟩, .reading 0 0⟩ } }
    let s := machine { card .running x with directory := [{ chunk 0 101 0 0 false with standing := .inUse }] }
    s.calm ∧ s.card.active = true ∧ s.card.header = some hdr ∧ s.card.stageable .i0 .picture = some (unitRef 4) ∧
      (s.card.dirEntry 0).isSome = true ∧ x.seq.titleOf 0 = some film ∧
      (film.reels[0]?).bind (·.trackOf .sound) = some ⟨.sound 48000 2, 102, false⟩ ∧
      ((after (.unitReadStart .i0 .picture (wr 0x8000 1 4)) s).card.scr .i0).port.staged.isSome = true ∧
      ((after (.unitReadStart .i0 .picture []) s).card.scr .i0).port.staged = none ∧
      ((after (.soundUnitReadEnd .i0 []) s).card.scr .i0).sound.staged.map (·.state) = some (.failed .length) :=
  ⟨⟨rfl, rfl, rfl, rfl⟩, rfl, rfl, by decide +kernel⟩

/-- The third and the fourth failure of a header read, of a fetch burst and of a unit burst. -/
theorem test_meets_BusFailuresCountTries :
    let three : State := { card := { engine := .starting, bus := [(.boothHeader, 3)] } }
    let two : State := { card := { engine := .starting, bus := [(.boothHeader, 2)] } }
    let s := fetching .picture [chunk 0 101 0 0 false] (some { slot := 0, gen := 1, tries := 3 })
    s.calm ∧ (after (.busAccessFailure .boothHeader) two).card.engine = .starting ∧
      (after (.busAccessFailure .boothHeader) three).card.engine = .faulted ∧
      (after (.busAccessFailure .boothHeader) three).window.faultCode = 6 ∧ 4096 * 0 < 64 ∧
      (after (.busAccessFailure (.fetchBurst 0)) s).card.fetch = none ∧
      (after (.busAccessFailure (.offerRead 3)) s).card.busCount (.offerRead 3) = 1 :=
  ⟨⟨rfl, rfl, rfl, rfl⟩, by decide +kernel⟩

/-- A screen with a transfer in flight. -/
def withTransfer (k : TransferKind) (f : Option Presented) (backOff : Bool) : State :=
  machine (card .running { seq := inFilm .running, port :=
    { link := .up, backOff := backOff, transfer := some (sending k f) } })

/-- A transfer with a segment to send, in back-off and not, one with none left, none in flight on a link that trains; a
caption frame being sent with another pending. -/
theorem test_meets_LinkSends :
    let f : CaptionFrame := ⟨.i0, 1, false, []⟩
    let s := machine (card .off { captions :=
      { sending := some f, pending := some { f with count := 2 }, count := 2 } })
    let idle := machine (card .running { port := { link := .training } })
    (∀ b, (withTransfer .faultDark none b).acts .i0 hdr) ∧ idle.acts .i0 hdr ∧
      (sending .faultDark none).sent < (sending .faultDark none).segments.length ∧
      ((after (.transferSegmentSent .i0) (withTransfer .faultDark none false)).card.scr .i0).port.transfer.map
        (·.sent) = some 1 ∧
      ((after (.backOffRequest .i0) (withTransfer .faultDark none false)).card.scr .i0).port.transfer.map (·.cut) =
        some true ∧
      ((after (.backOffRequest .i0) idle).card.scr .i0).port.backOff = true ∧
      s.powered = true ∧ (s.card.scr .i0).captions.sending = some f ∧
      ((after (.captionSendComplete .i0) s).card.scr .i0).captions.sending = some { f with count := 2 } :=
  ⟨fun _ => acts_card _, acts_card _, by decide, by decide +kernel⟩

theorem test_meets_ProjectorAnswersSettleFrame :
    (withTransfer .picture (some ⟨0, 0, 4, true⟩) false).acts .i0 hdr ∧
      ((after (.projectorRefused .i0 812) (withTransfer .picture (some ⟨0, 0, 4, true⟩) false)).card.scr
        .i0).port.lost = 1 := ⟨acts_card _, by decide +kernel⟩

/-- A play tally of the film. -/
def tallied : PlayTally := ⟨3, 0, 30, 900, 2, 1, false, [⟨1, 1, some 3⟩, {}]⟩

/-- A frame above the last counted one, at it, and of a reel with none; the credit is reached. -/
theorem test_meets_DeliveredFramesCount :
    let s := fun (r f : Nat) => machine { card .running { seq := inFilm .running, port :=
      { link := .up, transfer := some (sending .picture (some ⟨0, r, f, true⟩)) } } with
        counter := { plays := ⟨some tallied, none, none, none⟩, holding := [record 3 .opened] } }
    let paid := { s 0 4 with card := { (licensed (inFeature .running true ⟨0, 5⟩) []).card with
      screens := ⟨{ seq := inFeature .running true ⟨0, 5⟩, port := ((s 0 4).card.scr .i0).port }, {}, {}, {}⟩
      counter := (s 0 4).card.counter } }
    (s 0 4).acts .i0 hdr ∧ (inFilm .running).current = some tallied.entry ∧ (inFilm .running).started = true ∧
      ((after (.projectorTaken .i0 812) (s 0 4)).card.counter.plays.q0.map (fun p => (p.credited, p.isCredited))) =
        some (2, true) ∧
      ((after (.projectorTaken .i0 812) (s 0 4)).card.counter.holding.map (fun k => (k.isCredited, k.credited))) =
        [(true, 2)] ∧ (after (.projectorTaken .i0 812) (s 0 4)).raised (.screen .i0) .credited = 1 ∧
      (after (.projectorTaken .i0 812) paid).card.permits.table.map (fun x => (x.2.pending, x.2.counted)) =
        [(0, 1), (1, 0)] ∧
      ((after (.projectorTaken .i0 812) (s 0 3)).card.counter.plays.q0.map (·.credited)) = some 1 ∧
      ((after (.projectorTaken .i0 812) (s 1 0)).card.counter.plays.q0.map (·.credited)) = some 2 :=
  ⟨⟨⟨rfl, rfl, rfl, rfl⟩, rfl, rfl, rfl⟩, rfl, rfl, by decide +kernel⟩

theorem test_meets_LinkEventsMoveLink :
    let s := fun (l : LinkState) => machine (card .running { port := { link := l } })
    let link := fun (t : State) => (t.card.scr .i0).port.link
    (∀ p : PicturePort, (machine (card .running { port := p })).acts .i0 hdr) ∧
      link (after (.linkFound .i0) (s .down)) = .training ∧ link (after (.linkTrained .i0) (s .training)) = .up ∧
      link (after (.trainingFailed .i0) (s .training)) = .down ∧
      link (after (.signalLost .i0) (withTransfer .picture none false)) = .down ∧
      link (after (.trainingFailed .i0) (s .up)) = .up :=
  ⟨fun _ => acts_card _, by decide +kernel⟩

/-- R130, R134: a back-off asked for in TRAINING stays set when training fails; one in UP goes with the link. -/
theorem test_back_off_outlives_training :
    let s := fun (l : LinkState) => after (.backOffRequest .i0) (machine (card .running { port := { link := l } }))
    ((after (.trainingFailed .i0) (s .training)).card.scr .i0).port.backOff = true ∧
      ((after (.signalLost .i0) (s .up)).card.scr .i0).port.backOff = false := by decide +kernel

/-- R157, R158: page 1's fill count cannot be read, page 2 is found full; the search after it takes page 1. -/
theorem test_full_page_is_followed_by_search :
    let s := { machine { card .running {} with
      bus := [(.fillRead 1, 4)]
      counter := { holding := [record 3 .closed, record 4 .closed], writing := some (3, 31), lastPage := 0
                   current := some ⟨0, 1, 31, ⟨0, .r1, 0x9000⟩, none⟩
                   offers := [⟨1, ⟨0, .r1, 0x9000⟩⟩, ⟨1, ⟨0, .r1, 0xA000⟩⟩, ⟨1, ⟨0, .r1, 0xB000⟩⟩] } } with
      mem := Mem.hostStore [] (wr 0x12C8 32 4 ++ wr 0x12CC 1 4) }
    let t := after .logRecordWritten s
    t.card.counter.current.map (·.page) = some 1 ∧ t.raised .booth .logPageFull = 2 ∧
      t.raised .booth .logWaiting = 0 := by decide +kernel

/-- The last place a record may go into, and a fill count one below the full page. -/
theorem test_meets_LogRecordsFillPages :
    let s := fun (w : Option (U32 × Nat)) => machine { card .running {} with counter :=
      { holding := [record 3 .closed], current := some ⟨0, 1, 31, ⟨0, .r1, 0x9000⟩, none⟩, writing := w } }
    (s none).calm ∧ (s none).card.active = true ∧ (s none).card.header = some hdr ∧ 31 < 32 ∧ 30 + 1 < 32 ∧
      ((s none).scan.get .booth).seeded = true ∧
      (after .logRecordWriteStart (s none)).card.counter.writing = some (3, 31) ∧
      (after .logRecordWritten (s (some (3, 30)))).card.counter.holding = [] ∧
      (after .logRecordWritten (s (some (3, 30)))).mem.field 0x12A8 4 = 31 :=
  ⟨⟨rfl, rfl, rfl, rfl⟩, rfl, rfl, by decide +kernel⟩

/-- A page full by its last record, with no CLOSED record left and with one; then of the next entries, offered with
generation 1: nothing there, a half-filled page, a fresh one, and one that is full. -/
theorem test_meets_LogRecordsFillPages_full :
    let s := fun (more : List ShowingRecord) (offers : List PageOffer) (mem : HostWrites) =>
      { machine { card .running {} with counter :=
        { holding := record 3 .closed :: more, writing := some (3, 31)
          current := some ⟨0, 1, 31, ⟨0, .r1, 0x9000⟩, none⟩
          lastPage := 0, offers := ⟨1, ⟨0, .r1, 0x9000⟩⟩ :: offers ++ List.replicate (7 - offers.length) {} } } with
        mem := Mem.hostStore [] mem }
    let next : List PageOffer := [⟨1, ⟨0, .r1, 0xA000⟩⟩]
    let more := [record 4 .closed]
    let run := fun (more : List ShowingRecord) (offers : List PageOffer) (mem : HostWrites) =>
      let t := after .logRecordWritten (s more offers mem)
      (t.card.counter.current.map (fun p => (p.page, p.fill)), (t.raised .booth .logPageFull).toNat,
        (t.raised .booth .logWaiting).toNat, t.mem.field 0x12A0 2)
    (s more next []).calm ∧ ((s more next []).card.counter.offers[0]?).map (·.gen) = some 1 ∧
      (s more next []).card.counter.pages.length = 8 ∧ (s more next []).card.counter.offers.length = 8 ∧
      hdr.grants 0 0xA000 4096 (Ring.max .r1 .r1) true = true ∧ 31 + 1 = 32 ∧ (0 + 1 + 0) % 8 = 1 ∧
      run [] next [] = (none, 1, 0, 1) ∧ run more [] [] = (none, 1, 1, 1) ∧
      run more next (wr 0x12B8 5 4 ++ wr 0x12BC 1 4) = (some (1, 5), 1, 0, 1) ∧
      run more next (wr 0x12B8 5 4 ++ wr 0x12BC 9 4) = (some (1, 0), 1, 0, 1) ∧
      run more next (wr 0x12B8 32 4 ++ wr 0x12BC 1 4) = (none, 2, 1, 1) :=
  ⟨⟨rfl, rfl, rfl, rfl⟩, by decide +kernel⟩

/-- A write in flight of the MEMORY_FAULT place, with a newer raising, whose opening and closing copies then stand at
the place, and without. -/
theorem test_meets_NoticeWriteEndsWithCount :
    let s := fun (b : Bool) => { machine (card .running {}) with
      scan := { booth := { seeded := true, places := [(4, ⟨2, [], some 1, b, false⟩)] } } }
    (s true).calm ∧ (s false).card.active = true ∧ NoticeKind.onSheet .memoryFault .booth = true ∧
      (((s true).scan.get .booth).place .memoryFault).writing = some 1 ∧
      (((after (.noticeWriteEnd .booth .memoryFault) (s true)).scan.get .booth).place .memoryFault).writing = some 2 ∧
      (after (.noticeWriteEnd .booth .memoryFault) (s true)).mem.field 0x1520 4 = 2 ∧
      (after (.noticeWriteEnd .booth .memoryFault) (s true)).mem.field 0x159C 4 = 1 ∧
      (((after (.noticeWriteEnd .booth .memoryFault) (s false)).scan.get .booth).place .memoryFault).writing = none :=
  ⟨⟨rfl, rfl, rfl, rfl⟩, rfl, rfl, by decide +kernel⟩

/-- R7: entry frame 20 000 of reels of 20 000 and 21 000 frames is reel 1, reel frame 0. -/
theorem test_meets_EntryFramesLieInReels :
    [20000, 21000][1]? = some 21000 ∧ ([20000, 21000].take 1).sum ≤ 20000 ∧ locateFrame [20000, 21000] 20000 = (1, 0) :=
  ⟨rfl, by decide, by decide +kernel⟩

end Sys2Proof.Tests
end

/-! Entry frames over reels (R7): where `locateFrame` puts an entry frame, and the durations of each entry kind. -/
namespace Sys2Proof.Machine

/-! ## Entry frames lie in reels -/

/-- `base` is the index of the list's first reel, which the recursion raises by one at each reel. -/
theorem locateFrame_eq_of_within {durations : List Nat} {e r d : Nat} (base : Nat) (hd : durations[r]? = some d)
    (hlow : (durations.take r).sum ≤ e) (hhigh : e < (durations.take r).sum + d) :
    locateFrame durations e base = (base + r, e - (durations.take r).sum) := by
  induction durations generalizing e r base with
  | nil => simp at hd
  | cons first rest ih =>
    cases r with
    | zero =>
      obtain rfl : first = d := by simpa using hd
      have hin : e < first := by simpa using hhigh
      simp [locateFrame, hin]
    | succ r =>
      simp only [List.getElem?_cons_succ, List.take_succ_cons, List.sum_cons] at hd hlow hhigh ⊢
      have hpast : ¬ e < first := by omega
      have hrest : locateFrame rest (e - first) (base + 1) = (base + 1 + r, e - first - (rest.take r).sum) :=
        ih (base + 1) hd (by omega) (by omega)
      rw [locateFrame, if_neg hpast, hrest, Nat.sub_sub, Nat.add_right_comm, Nat.add_assoc]

theorem exists_reel_of_lt_sum {durations : List Nat} {e : Nat} (he : e < durations.sum) :
    ∃ r d, durations[r]? = some d ∧ (durations.take r).sum ≤ e ∧ e < (durations.take r).sum + d := by
  induction durations generalizing e with
  | nil => simp at he
  | cons first rest ih =>
    by_cases hin : e < first
    · exact ⟨0, first, by simp [hin]⟩
    · have hrest : e - first < rest.sum := by
        rw [List.sum_cons] at he
        omega
      obtain ⟨r, d, hd, hlow, hhigh⟩ := ih hrest
      refine ⟨r + 1, d, hd, ?_, ?_⟩ <;> rw [List.take_succ_cons, List.sum_cons] <;> omega

/-! ## The durations of an entry, by its kind -/

section
variable {q : Sequencer} {i : Nat} {e : Entry}

theorem Sequencer.durations_of_title {k : Nat} {ti : Title} (he : q.list[i]? = some e) (hk : e.kind = .title k)
    (ht : q.titles[k]? = some ti) : q.durations i = ti.reels.map (·.duration) := by
  cases e
  cases hk
  simp [Sequencer.durations, he, ht]

theorem Sequencer.durations_of_interval {l : Nat} (he : q.list[i]? = some e) (hk : e.kind = .interval l) :
    q.durations i = [24 * l] := by
  cases e
  cases hk
  simp [Sequencer.durations, he]

theorem Sequencer.durations_of_mark {hold : Bool} (he : q.list[i]? = some e) (hk : e.kind = .mark hold) :
    q.durations i = [] := by
  cases e
  cases hk
  simp [Sequencer.durations, he]

end

/-- Settles O60: the reel that R7 names exists below the entry's length and is the one found, by induction on the
durations. -/
theorem entryFramesLieInReels : Obligations.EntryFramesLieInReels := by
  unfold Obligations.EntryFramesLieInReels
  refine ⟨fun durations e r d hd hlow hhigh => ?_, fun _ _ he => exists_reel_of_lt_sum he, fun _ => rfl,
    fun q i e he => ⟨fun k ti hk ht => Sequencer.durations_of_title he hk ht, fun l hk => ?_, fun hold hk => ?_⟩⟩
  · simpa using locateFrame_eq_of_within 0 hd hlow hhigh
  · simp [Sequencer.durations_of_interval he hk]
  · simp [Sequencer.durations_of_mark he hk]

end Sys2Proof.Machine

/-! CLEAR_EMERGENCY (R146), over what the step of any request of the booth or key sheet does where it is taken and
answered without a search for a page. -/
namespace Sys2Proof.Machine

/-! ## The end of a step that publishes and seeks no page -/

theorem finish_sameOutside (s : State) : s.sameOutside s.finish := by
  obtain ⟨a, ha⟩ := (finish_spec s).window
  exact ⟨finish_pending s, finish_powered s, by rw [ha]⟩

theorem finish_bus {s : State} {h : Header} (hh : s.card.header = some h) (hb : s.card.bus = [])
    (hs : s.card.seekDue = false) : s.finish.card.bus = [] := by
  obtain ⟨q, hq⟩ := finish_eq_publish hs
  rw [hq]
  obtain ⟨kept, _⟩ :=
    publish_foldl_spec s.card.outbox (s := { s with card := { s.card with screens := q, outbox := [] } }) hh hb
  exact kept.bus

theorem finish_sameButFaders {s : State} {h : Header} (hh : s.card.header = some h) (hb : s.card.bus = [])
    (hs : s.card.seekDue = false) : ({ s.card with outbox := [] } : Card).sameButFaders s.finish.card := by
  have hbus := finish_bus hh hb hs
  obtain ⟨q, k, b, d, e, hcard, hscr, _, hcounter⟩ := (finish_spec s).card
  obtain rfl : k = s.card.counter := hcounter hs
  obtain rfl : b = [] := by rwa [hcard] at hbus
  rw [hcard]
  refine ⟨by simp only [hb, hs], fun sc => ?_⟩
  obtain ⟨y, ⟨target, step, rfl⟩, hy⟩ := hscr sc
  exact ⟨target, step, hy⟩

/-! ## A request of the booth or key sheet that is taken and answered -/

theorem answerDetail_length (fields : List (Nat × Nat)) : (answerDetail fields).length = 24 := by
  simp [answerDetail, padTo]
  omega

theorem State.takes.header_seeded {s : State} {sh : Sheet} {h : Header} {r : RequestWord} (t : s.takes sh h r) :
    s.card.header = some h ∧ (s.scan.get sh).seeded = true := by
  have hscan := t.scanned
  cases hheader : s.card.header with
  | none => simp [State.scanned, State.scanHeader, hheader] at hscan
  | some k =>
    simp only [State.scanned, State.scanHeader, hheader, Option.ite_none_left_eq_some, Option.ite_none_right_eq_some,
      Bool.and_eq_true, Option.some.injEq] at hscan
    obtain ⟨_, ⟨_, hseeded⟩, rfl⟩ := hscan
    exact ⟨rfl, hseeded⟩

/-- A step from `s` to `t` brings the card to `c` but for the faders, answers the request numbered `n` of the sheet, and
writes nothing else of booth memory. -/
structure State.Answers (s t : State) (h : Header) (sh : Sheet) (n : U32) (c : Card) (result : AnswerResult)
    (fields : List (Nat × Nat)) : Prop where
  answered : t.answered h sh n result fields
  card : c.sameButFaders t.card
  mem : s.mem.sameOutside t.mem [h.answerSpan sh]
  outside : s.sameOutside t

/-- The step of a request whose effect is to bring the card to `c` and then to answer. -/
theorem boothRequest_answers {s : State} {sh : Sheet} {h : Header} {r : RequestWord} (t : s.takes sh h r)
    {effect : Card → Card} {c : Card} {result : AnswerResult} {fields : List (Nat × Nat)}
    (heffect : effect s.card = c.answer sh r.number result fields) (hheader : c.header = s.card.header)
    (hbus : c.bus = s.card.bus) (houtbox : c.outbox = s.card.outbox) (hseek : c.seekDue = s.card.seekDue) :
    s.Answers (s.boothRequest sh r effect) h sh r.number c result fields := by
  obtain ⟨hh, hseeded⟩ := t.header_seeded
  obtain ⟨hempty, hidle⟩ := t.calm.settled
  rw [hh] at hheader
  rw [t.calm.bus] at hbus
  rw [hempty] at houtbox
  rw [hidle] at hseek
  have hstep : s.boothRequest sh r effect =
      State.finish { s.setLastTaken sh r.number with card := c.answer sh r.number result fields } := by
    rw [boothRequest_taken effect t, State.act, State.setLastTaken_card, heffect]
  rw [hstep]
  refine ⟨?_, ?_, fun a ha => ?_, ?_⟩
  · refine finish_answered (o := []) hheader hbus hseek ?_ ?_
    · simpa [State.setLastTaken] using hseeded
    · simp [houtbox]
  · have hcard := finish_sameButFaders
      (s := { s.setLastTaken sh r.number with card := c.answer sh r.number result fields }) hheader hbus hseek
    rwa [show ({ c.answer sh r.number result fields with outbox := [] } : Card) = c by
      rw [← houtbox]; rfl] at hcard
  · refine (finish_read hheader hbus hseek a fun p hp => ?_).trans rfl
    obtain rfl : p = .answer sh r.number result.code (answerDetail fields) := by simpa [houtbox] using hp
    simpa [Publication.span, answerDetail_length, Header.answerSpan] using ha _ (List.mem_singleton_self _)
  · have hout := finish_sameOutside
      { s.setLastTaken sh r.number with card := c.answer sh r.number result fields }
    exact ⟨hout.pending, hout.powered, hout.window⟩

/-! ## The three outcomes of CLEAR_EMERGENCY -/

theorem exec_clearEmergency (r : RequestWord) (s : State) :
    exec (.clearEmergency r) s = answer s (s.boothRequest .booth r (fun c => c.clearEmergency r.number)) := rfl

section
variable {c : Card} (n : U32)

theorem Card.clearEmergency_of_active (hsample : c.auto.emergencySample = true) :
    c.clearEmergency n = c.answer .booth n .refusedState := by
  simp [Card.clearEmergency, hsample]

theorem Card.clearEmergency_of_latched (hsample : c.auto.emergencySample = false) (hlatch : c.auto.latch = true) :
    c.clearEmergency n = (c.modAuto (fun a => { a with latch := false, owed := none })).answer .booth n .done := by
  simp [Card.clearEmergency, hsample, hlatch]

theorem Card.clearEmergency_of_clear (hsample : c.auto.emergencySample = false) (hlatch : c.auto.latch = false) :
    c.clearEmergency n = c.answer .booth n .done [(1, 4)] := by
  simp [Card.clearEmergency, hsample, hlatch, DetailWord.code]

end

/-- A change of the automation unit changes beside it the booth report's due mark alone. -/
theorem Card.modAuto_sameButFaders (c d : Card) (f : Automation → Automation) :
    (c.modAuto f).sameButFaders d ↔ ({ c with auto := f c.auto } : Card).sameButFaders d := Iff.rfl

/-- Settles O46, by the three rows of R146's table: the sample active, the latch set, the latch clear. -/
theorem clearEmergencyJudged : Obligations.ClearEmergencyJudged := by
  unfold Obligations.ClearEmergencyJudged
  intro r h s taken
  refine ⟨s.boothRequest .booth r (fun c => c.clearEmergency r.number), ?_, ?_⟩
  · rw [exec_clearEmergency, answer, if_pos taken.calm.powered]
  have judged := @boothRequest_answers s .booth h r taken (fun c => c.clearEmergency r.number)
  cases hsample : s.card.auto.emergencySample with
  | true =>
    have step := judged (Card.clearEmergency_of_active r.number hsample) rfl rfl rfl rfl
    exact ⟨fun _ => ⟨step.answered, step.card⟩, nofun, nofun, step.mem, step.outside⟩
  | false =>
    cases hlatch : s.card.auto.latch with
    | true =>
      have step := judged (Card.clearEmergency_of_latched r.number hsample hlatch) rfl rfl rfl rfl
      have card := (Card.modAuto_sameButFaders _ _ _).mp step.card
      exact ⟨nofun, fun _ _ => ⟨step.answered, card⟩, fun _ => nofun, step.mem, step.outside⟩
    | false =>
      have step := judged (Card.clearEmergency_of_clear r.number hsample hlatch) rfl rfl rfl rfl
      exact ⟨nofun, fun _ => nofun, fun _ _ => ⟨step.answered, step.card⟩, step.mem, step.outside⟩

end Sys2Proof.Machine
